-- ==== Sys2Proof/Word.lean ====
section
/-!
DEFINITION. Word.lean: the word types of the hart (00_scope.md rules R9, R10).
A register, an address or a CSR value of either build is held in 64 bits; with XLEN = 32 the upper half of such a
value is zero (Machine/Operands.lean normalises every value that is read or written).
-/

namespace Sys2Proof

/-- The width of `x` registers, `pc` and CSRs: the OPEN parameter `XLEN` of rule R9. -/
inductive Xlen where
  | rv32
  | rv64
deriving DecidableEq, Repr

/-- XLEN as a number of bits (rule R9). -/
def Xlen.bits : Xlen → Nat
  | .rv32 => 32
  | .rv64 => 64

/-- A register, address or CSR value (rule R10). -/
abbrev Word := BitVec 64

/-- The addressable unit (20_memory.md rule R200). -/
abbrev Byte := BitVec 8

/-- A general register number, `x0` to `x31` (30_encoding.md rule R333). -/
abbrev Reg := BitVec 5

/-- A floating-point register number, `f0` to `f31` (30_encoding.md rule R333). -/
abbrev FReg := BitVec 5

/-- A three-bit field naming `x8` to `x15` (30_encoding.md rule R381). -/
abbrev CReg := BitVec 3

/-- A three-bit field naming `f8` to `f15` (30_encoding.md rule R381). -/
abbrev CFReg := BitVec 3

/-- A rounding-mode field, `insn[14:12]` (30_encoding.md rule R346). -/
abbrev Rm := BitVec 3

/-- A CSR address (30_encoding.md rule R346). -/
abbrev CsrAddr := BitVec 12

end Sys2Proof
end

