-- ==== Sys2Proof/Config.lean ====
section
/-!
DEFINITION. Config.lean: the parameters of the hardware (00_scope.md rule R9) and the free values.
`Build` is plain data: it stands in State, no step changes it, and a statement about every state is a statement about
every build. The opaque constants at the end are the values the spec leaves open; they have no body.
-/

namespace Sys2Proof

/-- What answers behind the bus at a range of addresses (20_memory.md rule R206). -/
inductive RegionKind where
  | ram
  | device
deriving DecidableEq, Repr

/-- One region of the platform's `Bus` parameter (20_memory.md rule R206). -/
structure Region where
  base : Nat
  size : Nat
  kind : RegionKind
deriving DecidableEq, Repr

/-- The parameter `FpArith`: the default IEEE 754-2008 arithmetic or the host's (47_float_f.md rule R661). -/
inductive FpChoice where
  | ieee754
  | host
deriving DecidableEq, Repr

/-- The operations that `FpArith` decides (47_float_f.md rule R661). -/
inductive FpOp where
  | add | sub | mul | div | sqrt
  | fmadd | fmsub | fnmsub | fnmadd
  | cvtF2I (width : Nat) (isSigned : Bool)
  | cvtI2F (width : Nat) (isSigned : Bool)
  | cvtF2F
deriving DecidableEq, Repr

/-- The two formats of 47_float_f.md rule R666. -/
inductive Fmt where
  | s
  | d
deriving DecidableEq, Repr

/-- The kinds of the bus's `atomic_op` (46_atomics.md rule R630). -/
inductive AtomicKind where
  | swap | add | xor | and | or | min | max | minu | maxu
deriving DecidableEq, Repr

/-- What a bus read is made for: one of the accesses of a step, in the order of 20_memory.md rule R287, or the host's
inspection between steps (rule R244). A device may answer each differently (rule R206). -/
inductive Slot where
  | fetchLow
  | fetchHigh
  | data
  | inspect
deriving DecidableEq, Repr

/-- The OPEN parameters of rule R9. No rule computes with the last five: the cache geometry, `DCACHE_ENABLED` and the
unit of the uptime (log entry 3). -/
structure Build where
  xlen          : Xlen
  nHarts        : Nat
  hartId        : Nat
  entry         : Word
  icacheEnabled : Bool
  pollPeriod    : Nat
  haltOnEbreak  : Bool
  resvSpurious  : Bool
  fp            : FpChoice
  bus           : List Region
  icacheSets    : Nat
  dcacheEnabled : Bool
  dcacheSets    : Nat
  dcacheBlock   : Nat
  timeFreq      : Nat
deriving DecidableEq, Repr

/-- The conditions rule R9 and rule R206 put on the parameters. -/
def Build.wf (b : Build) : Bool :=
  decide (1 ≤ b.nHarts) && decide (b.hartId < b.nHarts) && decide (1 ≤ b.pollPeriod)
    && b.bus.all (fun r => decide (1 ≤ r.size) && decide (r.base + r.size ≤ 2 ^ 64))
    && decide (b.bus.Pairwise (fun p q => p.base + p.size ≤ q.base ∨ q.base + q.size ≤ p.base))

/-- DESIGN CHOICE (log entry 2): the build of `State.reset`, the machine of 95_test_vectors.md section 2 with the
halting EBREAK and the instruction cache present. -/
def Build.default : Build where
  xlen          := .rv64
  nHarts        := 1
  hartId        := 0
  entry         := 0x80000000
  icacheEnabled := true
  pollPeriod    := 1
  haltOnEbreak  := true
  resvSpurious  := false
  fp            := .ieee754
  bus           := [⟨0x80000000, 0x100000, .ram⟩]
  icacheSets    := 64
  dcacheEnabled := true
  dcacheSets    := 64
  dcacheBlock   := 64
  timeFreq      := 1000000

/-! ### Free values: constants without a body, applied to the step's draw counter (log entries 5 to 10) -/

/-- How far the uptime has moved on before draw `n` (10_state.md rule R107). -/
opaque Config.uptimeAdvance : Nat → BitVec 64

/-- Whether a present icache line is used at draw `n` (20_memory.md rule R263). -/
opaque Config.icacheUse : Nat → Bool

/-- Whether an instruction that raised still fills its icache line at draw `n` (40_step.md rule R427). -/
opaque Config.fillAfterTrap : Nat → Bool

/-- Whether the timer facility lets a passed deadline wait at draw `n` (60_exceptions.md rule R906). -/
opaque Config.timerWaits : Nat → Bool

/-- Whether the system drops the reservation of a physical address at draw `n` (46_atomics.md rule R622). -/
opaque Config.dropsReservation : Nat → Nat → Bool

/-- A device's answer to a read of `n` bytes at an address, for the access of a slot itself or for its page-table
walk at a level; `none` is an invalid access (20_memory.md rule R201). -/
opaque Config.deviceRead : (draw : Nat) → Slot → (level : Option Nat) → (pa n : Nat) → Option (BitVec 64)

/-- Whether a device accepts a write (20_memory.md rule R202). -/
opaque Config.deviceWrite : (draw : Nat) → (pa n : Nat) → (v : BitVec 64) → Bool

/-- A device's answer to an atomic operation (20_memory.md rule R203). -/
opaque Config.deviceAtomic : (draw : Nat) → AtomicKind → (pa n : Nat) → (v : BitVec 64) → Option (BitVec 64)

/-- A device's answer to a compare-and-swap: whether it stored (20_memory.md rule R203). -/
opaque Config.deviceCas : (draw : Nat) → (pa n : Nat) → (expected new : BitVec 64) → Option Bool

/-- The arithmetic of a build whose `FpArith` is the host's: total and deterministic, otherwise free
(47_float_f.md rule R661). -/
opaque Config.hostFpArith : FpOp → Fmt → (rm : BitVec 3) → (a b c : BitVec 64) → BitVec 64 × BitVec 5

end Sys2Proof
end

