-- ==== Sys2Proof/Machine/Bits.lean ====
section
/-!
DEFINITION. Machine/Bits.lean: bit fields, XLEN-wide values inside 64 bits, and the extensions of 00_scope.md rules
R10 and R11.
-/

namespace Sys2Proof.Machine

/-- The XLEN low bits of a value, the rest zero: what a register of the build can hold. -/
def norm (xl : Xlen) (v : Word) : Word :=
  match xl with
  | .rv32 => (v.setWidth 32).setWidth 64
  | .rv64 => v

/-- `sext_64` of an XLEN-wide value (rule R11): its signed reading is that of the result. -/
def sx (xl : Xlen) (v : Word) : Word :=
  match xl with
  | .rv32 => (v.setWidth 32).signExtend 64
  | .rv64 => v

/-- `sext(v[31:0])` to 64 bits. -/
def sext32 (v : Word) : Word := (v.setWidth 32).signExtend 64

/-- The low `n` bytes of a value. -/
def truncBytes (n : Nat) (v : Word) : Word :=
  match n with
  | 1 => (v.setWidth 8).setWidth 64
  | 2 => (v.setWidth 16).setWidth 64
  | 4 => (v.setWidth 32).setWidth 64
  | _ => v

/-- The low `n` bytes of a value, sign-extended to 64 bits. -/
def sextBytes (n : Nat) (v : Word) : Word :=
  match n with
  | 1 => (v.setWidth 8).signExtend 64
  | 2 => (v.setWidth 16).signExtend 64
  | 4 => (v.setWidth 32).signExtend 64
  | _ => v

/-- Bit `i` of a value. -/
def bit (v : Word) (i : Nat) : Bool := v.getLsbD i

/-- `v[lo+w-1:lo] <- f`. -/
def setField (v : Word) (lo w : Nat) (f : Word) : Word :=
  let mask : Word := (BitVec.ofNat 64 (2 ^ w - 1)) <<< lo
  (v &&& ~~~mask) ||| ((f <<< lo) &&& mask)

/-- `v[i] <- b`. -/
def setBit (v : Word) (i : Nat) (b : Bool) : Word := setField v i 1 (if b then 1 else 0)

/-- `(old & ~mask) | (new & mask)`. -/
def mergeMask (mask old new : Word) : Word := (old &&& ~~~mask) ||| (new &&& mask)

/-- A condition as the value 0 or 1. -/
def boolWord (b : Bool) : Word := if b then 1 else 0

end Sys2Proof.Machine
end

