-- ==== Sys2Proof/Machine/State.lean ====
section
/-!
DEFINITION. Machine/State.lean: the state of the hart and of what it reaches through its ports, as plain data
(10_state.md rules R40 to R121), why a step can stop, and the state after reset.
-/

namespace Sys2Proof.Machine

/-- The privilege modes (10_state.md rule R45). -/
inductive Priv where
  | user
  | supervisor
  | machine
deriving DecidableEq, Repr

/-- The run-state seen by the host (10_state.md rule R46). -/
inductive RunState where
  | idle
  | running
  | error
  | breakpoint
  | halt
deriving DecidableEq, Repr

/-- The exceptions of 60_exceptions.md rule R850, by their names in the spec. -/
inductive Cause where
  | instrAddrMisaligned
  | instrAccessFault
  | illegalInstr
  | breakpoint
  | loadAddrMisaligned
  | loadAccessFault
  | storeAddrMisaligned
  | storeAccessFault
  | ecallU
  | ecallS
  | ecallM
  | instrPageFault
  | loadPageFault
  | storePageFault
deriving DecidableEq, Repr

/-- A raised exception and its trap value (00_scope.md rule R14). -/
structure Exn where
  cause : Cause
  tval  : Word
deriving DecidableEq, Repr

/-- The six interrupts, one line and one `mip` bit each (60_exceptions.md rules R850, R905). -/
inductive Irq where
  | supervisorSoftware
  | machineSoftware
  | supervisorTimer
  | machineTimer
  | supervisorExternal
  | machineExternal
deriving DecidableEq, Repr

/-- An icache line's record: "(len, instruction word)" (10_state.md rule R112). -/
structure IcacheLine where
  len  : Nat
  word : BitVec 32
deriving DecidableEq, Repr

/-- The draws of one step: what the outside and the open choices do in it (40_step.md rule R435). -/
structure StepInput where
  /-- Set and clear calls on the interrupt lines that arrive before the step (60_exceptions.md rule R905). -/
  lines : List (Irq × Bool)
  /-- Bytes that other agents store to memory regions before the step (20_memory.md rules R206, R281). -/
  busWrites : List Host.Cell
  /-- Set and clear calls that arrive during the step, after its poll point (40_step.md rule R420). -/
  lateLines : List (Irq × Bool)
  /-- Bytes that other agents store during the step, after its poll point (40_step.md rule R420), each with the place
  of the first bus access of the step that sees it, `accessRank` of Machine/Ops.lean. -/
  lateWrites : List (Nat × Host.Cell)
  /-- Reservations the system drops before the step, when `RESV_SPURIOUS` holds (46_atomics.md rule R622). -/
  dropResv : List Nat
  /-- Whether a present icache line is used (20_memory.md rule R263). -/
  useIcache : Bool
  /-- Whether an instruction that raised still fills its icache line (40_step.md rule R427). -/
  fillAfterTrap : Bool
  /-- How far the uptime moves on before the step (10_state.md rule R107). -/
  advance : BitVec 64
  /-- Whether the timer facility lets a passed deadline wait (60_exceptions.md rule R906). -/
  timerWaits : Bool
deriving DecidableEq, Repr

/-- The state. Every field but those under "the model's own" is named by the rule beside it. -/
structure State where
  /-- The parameters of 00_scope.md rule R9; no step changes them. -/
  cfg : Build
  /-- `x[0..31]` (R41); `x[0]` is read through `readX`. -/
  x : Vector Word 32
  /-- `f[0..31]` (R49). -/
  f : Vector (BitVec 64) 32
  /-- `pc` (R43). -/
  pc : Word
  /-- `npc` (R44). -/
  npc : Word
  /-- `priv` (R45). -/
  priv : Priv
  /-- `run_state` (R46). -/
  runState : RunState
  /-- `halt_code` (R47). -/
  haltCode : Word
  /-- `halt_pc` (R47). -/
  haltPc : Word
  /-- `trap_pending` (R48). -/
  trapPending : Bool
  /-- `mstatus` (R70). -/
  mstatus : Word
  /-- `misa` (R72). -/
  misa : Word
  /-- `medeleg` (R73). -/
  medeleg : Word
  /-- `medelegh` (R73). -/
  medelegh : Word
  /-- `mideleg` (R74). -/
  mideleg : Word
  /-- `mie` (R75). -/
  mie : Word
  /-- `mip` (R76). -/
  mip : Word
  /-- `mtvec` (R77). -/
  mtvec : Word
  /-- `mcounteren` (R78). -/
  mcounteren : Word
  /-- `mscratch` (R79). -/
  mscratch : Word
  /-- `mepc` (R80). -/
  mepc : Word
  /-- `mcause` (R81). -/
  mcause : Word
  /-- `mtval` (R82). -/
  mtval : Word
  /-- `mcycle` and `mcycleh` (R85). -/
  mcycle : BitVec 64
  /-- `minstret` and `minstreth` (R85). -/
  minstret : BitVec 64
  /-- The 64 bytes of `pmpcfg0` to `pmpcfg15` (R86). -/
  pmpcfg : Vector (BitVec 8) 64
  /-- `pmpaddr0` to `pmpaddr63` (R87). -/
  pmpaddr : Vector Word 64
  /-- `stvec` (R93). -/
  stvec : Word
  /-- `scounteren` (R94). -/
  scounteren : Word
  /-- `sscratch` (R95). -/
  sscratch : Word
  /-- `sepc` (R96). -/
  sepc : Word
  /-- `scause` (R97). -/
  scause : Word
  /-- `stval` (R98). -/
  stval : Word
  /-- `satp` (R99). -/
  satp : Word
  /-- `stimecmp` and `stimecmph` (R100). -/
  stimecmp : BitVec 64
  /-- `fcsr`, with `fflags` and `frm` in it (R105). -/
  fcsr : BitVec 8
  /-- The bytes of the memory regions behind the bus (20_memory.md rule R206), in the canonical form of
  Machine/Ops.lean. -/
  mem : List Host.Cell
  /-- The reservation table, by physical address (R111). -/
  resv : List (Nat × BitVec 64)
  /-- The icache as a map from `pc` (R112, 20_memory.md rule R263). -/
  icache : List (Nat × IcacheLine)
  /-- The poll counter (R114): the steps since reset (log entry 19). -/
  pollCounter : Nat
  /-- The last sample of the timer facility's uptime (R107). -/
  uptime : BitVec 64
  /-- The deadline registered with the timer facility (60_exceptions.md rule R906). -/
  timerDeadline : Option (BitVec 64)
  /-- The model's own: the draws of the steps to come; free values follow them (log entry 5). -/
  env : List StepInput
  /-- The model's own: the number of the present draw (log entry 5). -/
  draws : Nat
  /-- The model's own: bytes as they were before stores of other agents during this step, each with the place of the
  first bus access that no longer sees it; empty between steps (log entry 9). -/
  former : List (Nat × Host.Cell)
  /-- The model's own: this step's instruction wrote `mcycle` (R85); false between steps. -/
  wroteMcycle : Bool
  /-- The model's own: this step's instruction wrote `minstret` (R85); false between steps. -/
  wroteMinstret : Bool
deriving DecidableEq, Repr

/-- Why the machine stops with a fault. -/
inductive Fault where
  /-- An engine invariant violation (40_step.md rule R432): no rule produces one and nothing in this model raises it.
  Safe. -/
  | engineInvariant
deriving DecidableEq, Repr

/-- Why a step is refused. -/
inductive Refusal where
  /-- Raised by an arm of `exec` whose instruction has no meaning yet. Safe. -/
  | notModelled (mnemonic : String)
  /-- Raised by `step` when `run_state` is not Running: "changes nothing (refused)" (40_step.md rule R433). Safe. -/
  | hartNotRunning
deriving DecidableEq, Repr

/-- `mstatus` after reset: SXL = UXL = 2 with XLEN = 64 (10_state.md rule R120). -/
def resetMstatus : Xlen → Word
  | .rv32 => 0
  | .rv64 => 0x0000000A00000000

/-- `misa` after reset (10_state.md rule R120). -/
def resetMisa : Xlen → Word
  | .rv32 => 0x4014112D
  | .rv64 => 0x800000000014112D

/-- The hart of a build right after `reset(entry)` (10_state.md rule R120, 70_reset_and_hazards.md rule R930), beside
a bus whose memory lists nothing and a timer facility that has counted nothing (log entries 4, 6). -/
def State.resetOf (cfg : Build) (entry : Word) : State where
  cfg           := cfg
  x             := Vector.replicate 32 0
  f             := Vector.replicate 32 0
  pc            := entry
  npc           := entry
  priv          := .machine
  runState      := .running
  haltCode      := 0
  haltPc        := 0
  trapPending   := false
  mstatus       := resetMstatus cfg.xlen
  misa          := resetMisa cfg.xlen
  medeleg       := 0
  medelegh      := 0
  mideleg       := 0
  mie           := 0
  mip           := 0
  mtvec         := 0
  mcounteren    := 0
  mscratch      := 0
  mepc          := 0
  mcause        := 0
  mtval         := 0
  mcycle        := 0
  minstret      := 0
  pmpcfg        := Vector.replicate 64 0
  pmpaddr       := Vector.replicate 64 0
  stvec         := 0
  scounteren    := 0
  sscratch      := 0
  sepc          := 0
  scause        := 0
  stval         := 0
  satp          := 0
  stimecmp      := 0xFFFFFFFFFFFFFFFF
  fcsr          := 0
  mem           := []
  resv          := []
  icache        := []
  pollCounter   := 0
  uptime        := 0
  timerDeadline := none
  env           := []
  draws         := 0
  former        := []
  wroteMcycle   := false
  wroteMinstret := false

/-- The machine right after reset, in the build of log entry 2. -/
def State.reset : State := State.resetOf Build.default Build.default.entry

end Sys2Proof.Machine
end

