-- ==== Sys2Proof/Machine/Operands.lean ====
section
/-!
DEFINITION. Machine/Operands.lean: every operand form: register files, immediates (30_encoding.md rules R340 to R346,
R381, R382), shift amounts, effective addresses and NaN-boxed singles (47_float_f.md rule R662).
-/

namespace Sys2Proof.Machine

/-! ### Register files -/

/-- `x[i]`: `x[0]` reads 0 (10_state.md rule R41). -/
def readX (r : Reg) (s : State) : Word :=
  if r = 0#5 then 0 else norm s.cfg.xlen (s.x[r.toNat]'r.isLt)

/-- `x[i] <- v`, XLEN bits; a write to `x[0]` is discarded (10_state.md rule R41). -/
def writeX (r : Reg) (v : Word) (s : State) : State :=
  if r = 0#5 then s else { s with x := s.x.set r.toNat (norm s.cfg.xlen v) r.isLt }

/-- `f[i]` (10_state.md rule R49). -/
def readF (r : FReg) (s : State) : BitVec 64 := s.f[r.toNat]'r.isLt

/-- `f[i] <- v` (10_state.md rule R49). -/
def writeF (r : FReg) (v : BitVec 64) (s : State) : State := { s with f := s.f.set r.toNat v r.isLt }

/-- The register a three-bit field names, `8 + u(r')` (30_encoding.md rule R381). -/
def cReg (r : CReg) : Reg := 0b01#2 ++ r

/-! ### Immediates -/

/-- `sext` of an I-, S- or CI-immediate (rules R340, R341, R382). -/
def sextImm {n : Nat} (imm : BitVec n) : Word := imm.signExtend 64

/-- `sext({imm, 0b0})`, an offset of B, J, CB or CJ format whose bit 0 is implicit (rules R342, R344, R382). -/
def sextHalf {n : Nat} (imm : BitVec n) : Word := (imm ++ 0#1).signExtend 64

/-- `sext({imm, 0x000})` (rules R343, R382). -/
def upperImm {n : Nat} (imm : BitVec n) : Word := (imm ++ 0#12).signExtend 64

/-- `zext` of a compressed immediate with `k` implicit zero bits (rule R382). -/
def scaledImm {n : Nat} (k : Nat) (imm : BitVec n) : Word := (imm ++ BitVec.zero k).setWidth 64

/-- `nzimm` of C.ADDI16SP: sign-extended, four implicit zero bits (rule R382). -/
def imm16sp (imm : BitVec 6) : Word := (imm ++ 0#4).signExtend 64

/-! ### Addresses and shift amounts -/

/-- `base + offset` modulo 2^XLEN (43_loadstore.md rule R520). -/
def effAddr (base : Reg) (offset : Word) (s : State) : Word := norm s.cfg.xlen (readX base s + offset)

/-- The amount of a register shift: the low 5 or 6 bits of `x[rs2]` (30_encoding.md rule R345). -/
def shiftReg (r : Reg) (s : State) : Nat := (readX r s).toNat % s.cfg.xlen.bits

/-- The amount of a `*W` register shift: the low 5 bits (30_encoding.md rule R345). -/
def shiftRegW (r : Reg) (s : State) : Nat := (readX r s).toNat % 32

/-! ### Floating-point operands (47_float_f.md rule R662) -/

/-- `box(v32)`. -/
def box (v : BitVec 32) : BitVec 64 := 0xFFFFFFFF#32 ++ v

/-- `unbox(r64)`: the canonical NaN where the upper half is not all ones. -/
def unbox (r : BitVec 64) : BitVec 32 := if r.extractLsb' 32 32 = 0xFFFFFFFF#32 then r.setWidth 32 else 0x7FC00000#32

/-- The operand of a format: a single is unboxed, a double is the register (48_float_d.md rule R720). -/
def readFmt (fmt : Fmt) (r : FReg) (s : State) : BitVec 64 :=
  match fmt with
  | .s => (unbox (readF r s)).setWidth 64
  | .d => readF r s

/-- The register image of a result of a format. -/
def packFmt (fmt : Fmt) (v : BitVec 64) : BitVec 64 :=
  match fmt with
  | .s => box (v.setWidth 32)
  | .d => v

end Sys2Proof.Machine
end

