-- ==== Sys2Proof/Machine/Flags.lean ====
section
/-!
DEFINITION. Machine/Flags.lean: the only accrued flags of the hart are the five of `fcsr` (10_state.md rule R50), and
with them goes `mstatus.FS` (47_float_f.md rules R663 to R665). The conditions of the branches and comparisons are
here too.
-/

namespace Sys2Proof.Machine

/-! ### Floating-point status -/

/-- `mstatus.FS`, bits 14:13 (10_state.md rule R70). -/
def mstatusFS (s : State) : BitVec 2 := s.mstatus.extractLsb' 13 2

/-- `SD = (FS == 3)` in bit XLEN-1 of an `mstatus` value (10_state.md rule R71). -/
def withSD (xl : Xlen) (m : Word) : Word := setBit m (xl.bits - 1) (m.extractLsb' 13 2 == 3#2)

/-- `mstatus.FS <- 3`, with SD (47_float_f.md rule R663). -/
def dirtyFS (s : State) : State := { s with mstatus := withSD s.cfg.xlen (setField s.mstatus 13 2 3) }

/-- `fflags <- fflags | fl`; a nonzero `fl` makes FS dirty (47_float_f.md rules R663, R664). -/
def accrue (fl : BitVec 5) (s : State) : State :=
  if fl = 0#5 then s else dirtyFS { s with fcsr := s.fcsr ||| fl.setWidth 8 }

/-- `f[rd] <- v; FS <- 3` (47_float_f.md rule R663). -/
def writeFDirty (r : FReg) (v : BitVec 64) (s : State) : State := dirtyFS (writeF r v s)

/-- The rounding mode of an instruction, or none where rule R665 of 47_float_f.md raises. -/
def effRm (rm : Rm) (s : State) : Option Rm :=
  let m := if rm = 7#3 then s.fcsr.extractLsb' 5 3 else rm
  if m.toNat < 5 then some m else none

/-- The flag values of 10_state.md rule R105. -/
def flagNV : BitVec 5 := 0b10000#5
def flagDZ : BitVec 5 := 0b01000#5
def flagOF : BitVec 5 := 0b00100#5
def flagUF : BitVec 5 := 0b00010#5
def flagNX : BitVec 5 := 0b00001#5

/-! ### Integer comparisons (00_scope.md rule R11) -/

/-- `a <s b` on XLEN-wide values. -/
def ltS (xl : Xlen) (a b : Word) : Bool := (sx xl a).slt (sx xl b)

/-- `a <u b` on XLEN-wide values. -/
def ltU (a b : Word) : Bool := a.ult b

end Sys2Proof.Machine
end

