-- ==== Sys2Proof/Machine/Ops.lean ====
section
/-!
DEFINITION. Machine/Ops.lean: the named operations over memory, the bus, translation, protection, reservations,
traps and the retire of a step. Each follows the procedure of the spec that its docstring names.
-/

namespace Sys2Proof.Machine

/-- What a meaning answers. -/
abbrev Result := Host.Outcome State Fault Refusal

/-! ### Maps with natural keys, kept strictly rising -/

/-- The value at a key. -/
def mapLookup {α : Type} (k : Nat) : List (Nat × α) → Option α
  | [] => none
  | (j, v) :: m => if k = j then some v else mapLookup k m

/-- Put a value at a key, in its place. -/
def mapInsert {α : Type} (k : Nat) (v : α) : List (Nat × α) → List (Nat × α)
  | [] => [(k, v)]
  | (j, w) :: m => if k < j then (k, v) :: (j, w) :: m else if k = j then (k, v) :: m else (j, w) :: mapInsert k v m

/-- Remove a key. -/
def mapErase {α : Type} (k : Nat) : List (Nat × α) → List (Nat × α)
  | [] => []
  | (j, w) :: m => if k = j then mapErase k m else (j, w) :: mapErase k m

/-- The keys rise strictly. -/
abbrev keysSorted {α : Type} (m : List (Nat × α)) : Prop := m.Pairwise (fun p q => p.1 < q.1)

/-! ### Memory regions (20_memory.md rules R206, R210) -/

/-- What an address that nothing has written reads as (DESIGN CHOICE, log entry 4). -/
def Memory.unlisted : Byte := 0

/-- The canonical form: addresses strictly rising, no entry equal to what an unlisted address reads as. -/
abbrev Memory.wf (m : List Host.Cell) : Prop := keysSorted m ∧ ∀ c ∈ m, c.2 ≠ Memory.unlisted

/-- One byte of memory. -/
def readByte (m : List Host.Cell) (a : Nat) : Byte := (mapLookup a m).getD Memory.unlisted

/-- Store one byte, keeping the canonical form. -/
def writeByte (m : List Host.Cell) (a : Nat) (b : Byte) : List Host.Cell :=
  if b = Memory.unlisted then mapErase a m else mapInsert a b m

/-- `n` bytes, the lowest address in the low bits (rule R210). -/
def readBytes (m : List Host.Cell) (a : Nat) : (n : Nat) → Word
  | 0 => 0
  | n + 1 => (readBytes m (a + 1) n <<< 8) ||| (readByte m a).setWidth 64

/-- Store the `n` low bytes of a value, the low bits at the lowest address (rule R210). -/
def writeBytes (m : List Host.Cell) (a : Nat) : (n : Nat) → Word → List Host.Cell
  | 0, _ => m
  | n + 1, v => writeBytes (writeByte m a (v.setWidth 8)) (a + 1) n (v >>> 8)

/-! ### The bus (20_memory.md rules R201 to R206) -/

/-- The region that holds a whole access; without one the access is invalid (rule R206). -/
def regionOf (bus : List Region) (pa n : Nat) : Option Region :=
  bus.find? (fun r => decide (r.base ≤ pa) && decide (pa + n ≤ r.base + r.size))

/-- The place of a bus read among the reads of a step (rule R287): the table reads of an access, from the highest level
down, come before the access, and the first parcel before the second before the data. -/
def accessRank (slot : Slot) (level : Option Nat) : Nat :=
  6 * (match slot with | .fetchLow => 0 | .fetchHigh => 1 | .data => 2 | .inspect => 3)
    + (match level with | some i => 4 - i | none => 5)

/-- What a byte held for a read at a place, where a store of another agent during this step has changed it since
(40_step.md rule R420, log entry 9). The data access, the last of a step, sees every store. -/
def formerByte (rank a : Nat) : List (Nat × Host.Cell) → Option Byte
  | [] => none
  | (first, c) :: rest => if rank < first ∧ rank < 17 ∧ c.1 = a then some c.2 else formerByte rank a rest

/-- One byte of memory as a bus read of this step sees it. -/
def seenByte (slot : Slot) (level : Option Nat) (s : State) (a : Nat) : Byte :=
  (formerByte (accessRank slot level) a s.former).getD (readByte s.mem a)

/-- `n` bytes as a bus read of this step sees them (rule R210). -/
def seenBytes (slot : Slot) (level : Option Nat) (s : State) (a : Nat) : (n : Nat) → Word
  | 0 => 0
  | n + 1 => (seenBytes slot level s (a + 1) n <<< 8) ||| (seenByte slot level s a).setWidth 64

/-- `PhysRead(pa, n)` (rule R201); `none` is `valid = false`. -/
def physRead (slot : Slot) (level : Option Nat) (pa n : Nat) (s : State) : Option Word :=
  match regionOf s.cfg.bus pa n with
  | none => none
  | some ⟨_, _, .ram⟩ => some (seenBytes slot level s pa n)
  | some ⟨_, _, .device⟩ => (Config.deviceRead s.draws slot level pa n).map (truncBytes n)

/-- `PhysWrite(pa, n, v)` (rule R202). -/
def physWrite (pa n : Nat) (v : Word) (s : State) : Option State :=
  match regionOf s.cfg.bus pa n with
  | none => none
  | some ⟨_, _, .ram⟩ => some { s with mem := writeBytes s.mem pa n v }
  | some ⟨_, _, .device⟩ => if Config.deviceWrite s.draws pa n (truncBytes n v) then some s else none

/-- `combine(kind, old, src)` on `8n`-bit values (46_atomics.md rule R630). -/
def combine (kind : AtomicKind) (n : Nat) (old src : Word) : Word :=
  match kind with
  | .swap => src
  | .add => truncBytes n (old + src)
  | .xor => old ^^^ src
  | .and => old &&& src
  | .or => old ||| src
  | .min => if (sextBytes n old).slt (sextBytes n src) then old else src
  | .max => if (sextBytes n src).slt (sextBytes n old) then old else src
  | .minu => if old.ult src then old else src
  | .maxu => if src.ult old then old else src

/-- `PhysAtomic(pa, n, kind, operand)` (rule R203): the old value and the state after. -/
def physAtomic (kind : AtomicKind) (pa n : Nat) (src : Word) (s : State) : Option (Word × State) :=
  match regionOf s.cfg.bus pa n with
  | none => none
  | some ⟨_, _, .ram⟩ =>
    let old := readBytes s.mem pa n
    some (old, { s with mem := writeBytes s.mem pa n (combine kind n old src) })
  | some ⟨_, _, .device⟩ => (Config.deviceAtomic s.draws kind pa n src).map (fun old => (truncBytes n old, s))

/-- `PhysCAS(pa, n, expected, new)` (rule R203): whether it stored, and the state after. -/
def physCas (pa n : Nat) (expected new : Word) (s : State) : Option (Bool × State) :=
  match regionOf s.cfg.bus pa n with
  | none => none
  | some ⟨_, _, .ram⟩ =>
    if readBytes s.mem pa n = expected then some (true, { s with mem := writeBytes s.mem pa n new })
    else some (false, s)
  | some ⟨_, _, .device⟩ => (Config.deviceCas s.draws pa n expected new).map (fun ok => (ok, s))

/-! ### Traps (60_exceptions.md) -/

/-- The cause codes (rule R850). -/
def Cause.code : Cause → Nat
  | .instrAddrMisaligned => 0
  | .instrAccessFault => 1
  | .illegalInstr => 2
  | .breakpoint => 3
  | .loadAddrMisaligned => 4
  | .loadAccessFault => 5
  | .storeAddrMisaligned => 6
  | .storeAccessFault => 7
  | .ecallU => 8
  | .ecallS => 9
  | .ecallM => 11
  | .instrPageFault => 12
  | .loadPageFault => 13
  | .storePageFault => 15

/-- The interrupt codes, which are also the `mip` bits (rule R850). -/
def Irq.code : Irq → Nat
  | .supervisorSoftware => 1
  | .machineSoftware => 3
  | .supervisorTimer => 5
  | .machineTimer => 7
  | .supervisorExternal => 9
  | .machineExternal => 11

/-- The number of a mode (10_state.md rule R45). -/
def Priv.level : Priv → Nat
  | .user => 0
  | .supervisor => 1
  | .machine => 3

/-- The mode an `mstatus.MPP` value names; 2 cannot be stored (10_state.md rule R71) and is read as User. -/
def Priv.ofMpp (v : BitVec 2) : Priv :=
  if v = 3#2 then .machine else if v = 1#2 then .supervisor else .user

/-- `vector(tvec, code)` (rule R873): vectored mode applies to every cause. -/
def trapVector (xl : Xlen) (tvec : Word) (code : Nat) : Word :=
  let base := tvec &&& ~~~3#64
  if bit tvec 0 then norm xl (base + BitVec.ofNat 64 (4 * code)) else base

/-- Entry into Supervisor mode with a cause (rules R870, R872); `stval` is the caller's. -/
def enterS (cause : Word) (code : Nat) (s : State) : State :=
  { s with
    sepc := s.pc
    scause := cause
    mstatus :=
      setBit (setBit (setBit s.mstatus 8 (s.priv != .user)) 5 (bit s.mstatus 1)) 1 false
    priv := .supervisor
    npc := trapVector s.cfg.xlen s.stvec code
    trapPending := true }

/-- Entry into Machine mode with a cause (rules R870, R872); `mtval` is the caller's. -/
def enterM (cause : Word) (code : Nat) (s : State) : State :=
  { s with
    mepc := s.pc
    mcause := cause
    mstatus :=
      setBit (setBit (setField s.mstatus 11 2 (BitVec.ofNat 64 s.priv.level)) 7 (bit s.mstatus 3)) 3 false
    priv := .machine
    npc := trapVector s.cfg.xlen s.mtvec code
    trapPending := true }

/-- `delegated(code)` (rule R871). -/
def delegated (code : Nat) (s : State) : Bool :=
  s.priv != .machine &&
    (if code < s.cfg.xlen.bits then bit s.medeleg code
     else s.cfg.xlen == .rv32 && bit s.medelegh (code - 32))

/-- `trap(code, value)`: taking an exception (rule R870). -/
def deliver (e : Exn) (s : State) : State :=
  let code := e.cause.code
  if delegated code s then { enterS (BitVec.ofNat 64 code) code s with stval := e.tval }
  else { enterM (BitVec.ofNat 64 code) code s with mtval := e.tval }

/-- `raise IllegalInstr(insn)` by a decoded instruction (30_encoding.md rule R370). -/
def illegal (bits : Word) (s : State) : State := deliver ⟨.illegalInstr, bits⟩ s

/-- An interrupt's cause value: bit XLEN-1 and the code (10_state.md rule R81). -/
def irqCause (xl : Xlen) (i : Irq) : Word := setBit (BitVec.ofNat 64 i.code) (xl.bits - 1) true

/-- `trap_interrupt(i, S)` or `trap_interrupt(i, M)` (rule R872): `xtval` is not written. -/
def deliverInterrupt (i : Irq) (toS : Bool) (s : State) : State :=
  if toS then enterS (irqCause s.cfg.xlen i) i.code s else enterM (irqCause s.cfg.xlen i) i.code s

/-- The machine-destined priority order (rule R881). -/
def machineOrder : List Irq :=
  [.machineExternal, .machineSoftware, .machineTimer, .supervisorExternal, .supervisorSoftware, .supervisorTimer]

/-- The supervisor-destined priority order (rule R882). -/
def supervisorOrder : List Irq := [.supervisorExternal, .supervisorSoftware, .supervisorTimer]

/-- `SupervisorScan(pend)` (rule R882). -/
def supervisorScan (pend : Word) (s : State) : Option (Irq × Bool) :=
  if s.priv = .user ∨ (s.priv = .supervisor ∧ bit s.mstatus 1) then
    (supervisorOrder.find? (fun i => bit (pend &&& s.mideleg) i.code)).map (·, true)
  else none

/-- `InterruptScan()` (rules R880, R881): the interrupt to deliver and whether into Supervisor mode. -/
def interruptScan (s : State) : Option (Irq × Bool) :=
  let pend := s.mip &&& s.mie
  if s.priv ≠ .machine ∨ bit s.mstatus 3 then
    match machineOrder.find? (fun i => bit (pend &&& ~~~s.mideleg) i.code) with
    | some i => some (i, false)
    | none => supervisorScan pend s
  else supervisorScan pend s

/-- MRET's effect in Machine mode (44_system.md rule R555). -/
def returnM (s : State) : State :=
  { s with
    mstatus := setField (setBit (setBit s.mstatus 3 (bit s.mstatus 7)) 7 true) 11 2 0
    priv := Priv.ofMpp (s.mstatus.extractLsb' 11 2)
    npc := s.mepc }

/-- SRET's effect in Machine and Supervisor mode (44_system.md rule R556). -/
def returnS (s : State) : State :=
  { s with
    mstatus := setBit (setBit (setBit (setBit s.mstatus 1 (bit s.mstatus 5)) 5 true) 8 false) 17 false
    priv := if bit s.mstatus 8 then .supervisor else .user
    npc := s.sepc }

/-! ### Address translation (20_memory.md rules R230 to R245) -/

/-- The access types. -/
inductive Access where
  | fetch
  | load
  | store
deriving DecidableEq, Repr

/-- What `translate` returns where it returns no address (rule R230). -/
inductive XlateFault where
  | pageFault
  | accessFault
deriving DecidableEq, Repr

/-- The parameters of a walk (rule R232). -/
structure WalkMode where
  levels  : Nat
  pteSize : Nat
  vpnBits : Nat
  ppnBits : Nat
deriving DecidableEq, Repr

/-- Sv32. -/
def sv32 : WalkMode := ⟨2, 4, 10, 22⟩
/-- Sv39. -/
def sv39 : WalkMode := ⟨3, 8, 9, 44⟩
/-- Sv48. -/
def sv48 : WalkMode := ⟨4, 8, 9, 44⟩
/-- Sv57. -/
def sv57 : WalkMode := ⟨5, 8, 9, 44⟩

/-- `satp.MODE` (10_state.md rule R99); none is Bare. -/
def satpMode (xl : Xlen) (satp : Word) : Option WalkMode :=
  match xl with
  | .rv32 => if bit satp 31 then some sv32 else none
  | .rv64 =>
    let mode := satp.extractLsb' 60 4
    if mode = 8#4 then some sv39 else if mode = 9#4 then some sv48 else if mode = 10#4 then some sv57 else none

/-- `u(satp.PPN)` (10_state.md rule R99). -/
def satpPpn (xl : Xlen) (satp : Word) : Nat :=
  match xl with
  | .rv32 => (satp.extractLsb' 0 22).toNat
  | .rv64 => (satp.extractLsb' 0 44).toNat

/-- `vpn[i]` (rule R232). -/
def vpn (m : WalkMode) (va : Word) (i : Nat) : Nat := (va.toNat >>> (12 + m.vpnBits * i)) % 2 ^ m.vpnBits

/-- `u(pte.PPN)` (rule R233). -/
def ptePpn (m : WalkMode) (pte : Word) : Nat := (pte.toNat >>> 10) % 2 ^ m.ppnBits

/-- `u_ok(pte)` (rule R236). -/
def uOk (pte : Word) (s : State) : Bool :=
  match s.priv with
  | .user => bit pte 4
  | .supervisor => !bit pte 4 || bit s.mstatus 18
  | .machine => false

/-- `perm_ok(pte, type)` (rule R237). -/
def permOk (pte : Word) : Access → Bool
  | .fetch => bit pte 3
  | .load => bit pte 1
  | .store => bit pte 2

/-- `compose(pte, va, i)` (rule R238). -/
def compose (m : WalkMode) (ppn : Nat) (va : Word) (i : Nat) : Nat :=
  let low := m.vpnBits * i
  let ppn' := ppn - ppn % 2 ^ low + (va.toNat >>> 12) % 2 ^ low
  ppn' * 4096 + va.toNat % 4096

/-- The loop of the walk from level `i` at a table's base (rule R235, steps 1 to 4). -/
def walkFrom (m : WalkMode) (acc : Access) (slot : Slot) (va : Word) (s : State) :
    (i : Nat) → (base : Nat) → Except XlateFault Nat
  | i, base =>
    match physRead slot (some i) (base + vpn m va i * m.pteSize) m.pteSize s with
    | none => .error .accessFault
    | some pte =>
      if !bit pte 0 || (!bit pte 1 && bit pte 2) then .error .pageFault
      else if !bit pte 1 && !bit pte 3 then
        match i with
        | 0 => .error .pageFault
        | j + 1 => walkFrom m acc slot va s j (ptePpn m pte * 4096)
      else if ptePpn m pte % 2 ^ (m.vpnBits * i) ≠ 0 then .error .pageFault
      else if !uOk pte s then .error .pageFault
      else if !permOk pte acc then .error .accessFault
      else .ok (compose m (ptePpn m pte) va i)

/-- The canonical-address check, made for Sv39 only (rule R240). -/
def canonical (m : WalkMode) (va : Word) : Bool :=
  m != sv39 || (va.extractLsb' 0 39).signExtend 64 == va

/-- `walk(va, type)` (rule R235). -/
def walk (m : WalkMode) (acc : Access) (slot : Slot) (va : Word) (s : State) : Except XlateFault Nat :=
  if canonical m va then walkFrom m acc slot va s (m.levels - 1) (satpPpn s.cfg.xlen s.satp * 4096)
  else .error .pageFault

/-- `translate(va, type)` (rules R230, R231): the privilege is `priv`, whatever MPRV holds. -/
def translate (acc : Access) (slot : Slot) (va : Word) (s : State) : Except XlateFault Nat :=
  if s.priv = .machine then .ok va.toNat
  else
    match satpMode s.cfg.xlen s.satp with
    | none => .ok va.toNat
    | some m => walk m acc slot va s

/-! ### Physical memory protection (10_state.md rule R110, 20_memory.md rule R241) -/

/-- The number of consecutive 1 bits from bit 0, at most `w`. -/
def trailingOnes : (w : Nat) → Nat → Nat
  | 0, _ => 0
  | w + 1, a => if a % 2 = 1 then trailingOnes w (a / 2) + 1 else 0

/-- The width of `pmpaddr` (10_state.md rule R87). -/
def pmpWidth : Xlen → Nat
  | .rv32 => 32
  | .rv64 => 54

/-- PALEN (00_scope.md rule R9). -/
def palen : Xlen → Nat
  | .rv32 => 34
  | .rv64 => 56

/-- Entry `i` of the range table as [start, end) (rule R110); none where the entry gives no range. -/
def pmpRange (s : State) (i : Fin 64) : Option (Nat × Nat) :=
  let a := (s.pmpaddr[i]).toNat
  match (s.pmpcfg[i]).extractLsb' 3 2 with
  | 0#2 => none
  | 1#2 =>
    let start := if h : 0 < i.val then (s.pmpaddr[i.val - 1]'(by omega)).toNat * 4 else 0
    if start ≤ a * 4 then some (start, a * 4) else none
  | 2#2 => some (a * 4, a * 4 + 4)
  | _ =>
    let t := trailingOnes (pmpWidth s.cfg.xlen) a
    if t = pmpWidth s.cfg.xlen then some (0, 2 ^ palen s.cfg.xlen)
    else
      let start := (a - a % 2 ^ (t + 1)) * 4
      some (start, start + 2 ^ (t + 3))

/-- The permission bit of an entry (rule R86): R for loads, W for stores, X for fetches. -/
def pmpPerm (cfg : BitVec 8) : Access → Bool
  | .load => cfg.getLsbD 0
  | .store => cfg.getLsbD 1
  | .fetch => cfg.getLsbD 2

/-- `pmp_ok(pa, n, p)` over the entries from a position on (rule R241). -/
def pmpScan (acc : Access) (pa n : Nat) (s : State) : List (Fin 64) → Bool
  | [] => false
  | i :: rest =>
    match pmpRange s i with
    | none => pmpScan acc pa n s rest
    | some (start, stop) =>
      if start < stop ∧ pa < stop ∧ start < pa + n then
        decide (start ≤ pa ∧ pa + n ≤ stop) && pmpPerm s.pmpcfg[i] acc
      else pmpScan acc pa n s rest

/-- The PMP check of an access: none in Machine mode (rule R241). -/
def pmpOk (acc : Access) (pa n : Nat) (s : State) : Bool :=
  s.priv == .machine || pmpScan acc pa n s (List.finRange 64)

/-! ### The access procedures (20_memory.md rules R212 to R218) -/

/-- The exception of a failed translation or access (rule R218). -/
def faultCause : Access → XlateFault → Cause
  | .fetch, .pageFault => .instrPageFault
  | .fetch, .accessFault => .instrAccessFault
  | .load, .pageFault => .loadPageFault
  | .load, .accessFault => .loadAccessFault
  | .store, .pageFault => .storePageFault
  | .store, .accessFault => .storeAccessFault

/-- The exception of a misaligned data address (rule R212). -/
def misalignedCause : Access → Cause
  | .fetch => .instrAddrMisaligned
  | .load => .loadAddrMisaligned
  | .store => .storeAddrMisaligned

/-- The address steps that LR, SC, AMO, loads and stores share: alignment, translation, PMP (rules R215, R216,
R243). -/
def dataAddr (acc : Access) (va : Word) (n : Nat) (s : State) : Except Exn Nat :=
  if va.toNat % n ≠ 0 then .error ⟨misalignedCause acc, va⟩
  else
    match translate acc .data va s with
    | .error k => .error ⟨faultCause acc k, va⟩
    | .ok pa => if pmpOk acc pa n s then .ok pa else .error ⟨faultCause acc .accessFault, va⟩

/-- `MemRead(va, n)` (rule R215). -/
def memRead (va : Word) (n : Nat) (s : State) : Except Exn Word :=
  match dataAddr .load va n s with
  | .error e => .error e
  | .ok pa =>
    match physRead .data none pa n s with
    | none => .error ⟨.loadAccessFault, va⟩
    | some v => .ok v

/-- `MemWrite(va, n, v)` (rule R216). -/
def memWrite (va : Word) (n : Nat) (v : Word) (s : State) : Except Exn State :=
  match dataAddr .store va n s with
  | .error e => .error e
  | .ok pa =>
    match physWrite pa n v s with
    | none => .error ⟨.storeAccessFault, va⟩
    | some s' => .ok s'

/-- `FetchParcel(va)` (rule R217). -/
def fetchParcel (slot : Slot) (va : Word) (s : State) : Except Exn (BitVec 16) :=
  match translate .fetch slot va s with
  | .error k => .error ⟨faultCause .fetch k, va⟩
  | .ok pa =>
    if pmpOk .fetch pa 2 s then
      match physRead slot none pa 2 s with
      | none => .error ⟨.instrAccessFault, va⟩
      | some v => .ok (v.setWidth 16)
    else .error ⟨.instrAccessFault, va⟩

/-! ### Loads and stores of the register files -/

/-- How a loaded value is extended (43_loadstore.md rule R521). -/
inductive Ext where
  | signed
  | unsigned
deriving DecidableEq, Repr

/-- `ext(v)` of an `n`-byte value. -/
def extendLoad (ext : Ext) (n : Nat) (v : Word) : Word :=
  match ext with
  | .signed => sextBytes n v
  | .unsigned => v

/-- A load into `x[rd]` (43_loadstore.md rule R521). -/
def loadX (rd : Reg) (ea : Word) (n : Nat) (ext : Ext) (s : State) : State :=
  match memRead ea n s with
  | .error e => deliver e s
  | .ok v => writeX rd (extendLoad ext n v) s

/-- A store of the low `n` bytes of a value (43_loadstore.md rule R522). -/
def storeBytes (ea : Word) (n : Nat) (v : Word) (s : State) : State :=
  match memWrite ea n v s with
  | .error e => deliver e s
  | .ok s' => s'

/-- Run an effect of a floating-point instruction where `mstatus.FS` enables it (47_float_f.md rule R663). -/
def fpEnabled (bits : Word) (s : State) (k : State → State) : State :=
  if mstatusFS s = 0#2 then illegal bits s else k s

/-- A load into `f[rd]` (47_float_f.md rule R670, 48_float_d.md rule R721). -/
def loadF (bits : Word) (fmt : Fmt) (rd : FReg) (ea : Word) (s : State) : State :=
  fpEnabled bits s fun s =>
    match memRead ea (match fmt with | .s => 4 | .d => 8) s with
    | .error e => deliver e s
    | .ok v => writeFDirty rd (packFmt fmt v) s

/-- A store of `f[rs2]`: the low bits raw (47_float_f.md rule R671, 48_float_d.md rule R722). -/
def storeF (bits : Word) (fmt : Fmt) (rs2 : FReg) (ea : Word) (s : State) : State :=
  fpEnabled bits s fun s => storeBytes ea (match fmt with | .s => 4 | .d => 8) (readF rs2 s) s

/-! ### Control transfer (42_control.md rule R500) -/

/-- The address after the instruction, the link value. -/
def linkAddr (len : Nat) (s : State) : Word := norm s.cfg.xlen (s.pc + BitVec.ofNat 64 len)

/-- `pc <- pc + offset`, which is written to `npc`. -/
def jumpRel (offset : Word) (s : State) : State := { s with npc := norm s.cfg.xlen (s.pc + offset) }

/-- `pc <- target & ~1`. -/
def jumpTo (target : Word) (s : State) : State := { s with npc := norm s.cfg.xlen (target &&& ~~~1#64) }

/-- A conditional branch: a condition that fails leaves `npc`. -/
def branch (taken : Bool) (offset : Word) (s : State) : State := if taken then jumpRel offset s else s

/-- A jump through a register with its link (42_control.md rule R502): the target is read first. -/
def jumpReg (rd rs1 : Reg) (offset : Word) (len : Nat) (s : State) : State :=
  let target := readX rs1 s + offset
  writeX rd (linkAddr len s) (jumpTo target s)

/-! ### Reservations and atomics (46_atomics.md) -/

/-- `LR(n)` (rule R621). -/
def loadReserved (n : Nat) (rd rs1 : Reg) (s : State) : State :=
  let ea := readX rs1 s
  match dataAddr .load ea n s with
  | .error e => deliver e s
  | .ok pa =>
    match physRead .data none pa n s with
    | none => deliver ⟨.loadAccessFault, ea⟩ s
    | some v => writeX rd (sextBytes n v) { s with resv := mapInsert pa v s.resv }

/-- `SC(n)` (rule R623): a miss empties the table, a hit consumes its entry. -/
def storeConditional (n : Nat) (rd rs1 rs2 : Reg) (s : State) : State :=
  let ea := readX rs1 s
  let new := truncBytes n (readX rs2 s)
  match dataAddr .store ea n s with
  | .error e => deliver e s
  | .ok pa =>
    match mapLookup pa s.resv with
    | none => writeX rd 1 { s with resv := [] }
    | some e =>
      let s1 := { s with resv := mapErase pa s.resv }
      match physCas pa n (truncBytes n e) new s1 with
      | none => deliver ⟨.storeAccessFault, ea⟩ s1
      | some (ok, s2) => writeX rd (if ok then 0 else 1) s2

/-- `AMO(n, kind)` (rule R630). -/
def amo (kind : AtomicKind) (n : Nat) (rd rs1 rs2 : Reg) (s : State) : State :=
  let ea := readX rs1 s
  let src := truncBytes n (readX rs2 s)
  match dataAddr .store ea n s with
  | .error e => deliver e s
  | .ok pa =>
    match physAtomic kind pa n src s with
    | none => deliver ⟨.storeAccessFault, ea⟩ s
    | some (old, s1) => writeX rd (sextBytes n old) s1

/-! ### Fences, environment calls, the Halt instruction (44_system.md) -/

/-- Every icache line becomes invalid (rules R551, R559). -/
def flushIcache (s : State) : State := { s with icache := [] }

/-- The environment-call exception of the current mode (rule R552). -/
def ecallCause : Priv → Cause
  | .user => .ecallU
  | .supervisor => .ecallS
  | .machine => .ecallM

/-- The Halt instruction (rule R557). -/
def haltHart (s : State) : State :=
  { s with haltPc := s.pc, haltCode := readX 10 s, runState := .halt }

/-- EBREAK and C.EBREAK (rules R553, R557). -/
def breakOrHalt (s : State) : State :=
  if s.cfg.haltOnEbreak then haltHart s else deliver ⟨.breakpoint, s.pc⟩ s

end Sys2Proof.Machine
end

