-- ==== Sys2Proof/Machine/Atomics.lean ====
section
/-!
DEFINITION. Machine/Atomics.lean: LR, SC and the atomic memory operations (46_atomics.md); aq and rl change nothing on
one hart (rule R650).
-/

namespace Sys2Proof.Machine

/-- `lr.w` (46_atomics.md rule R625). -/
def execLrW (rd rs1 : Reg) (_aq _rl : BitVec 1) (s : State) : Result := .next (loadReserved 4 rd rs1 s)

/-- `lr.d` (46_atomics.md rule R626). -/
def execLrD (rd rs1 : Reg) (_aq _rl : BitVec 1) (s : State) : Result := .next (loadReserved 8 rd rs1 s)

/-- `sc.w` (46_atomics.md rule R627). -/
def execScW (rd rs1 rs2 : Reg) (_aq _rl : BitVec 1) (s : State) : Result := .next (storeConditional 4 rd rs1 rs2 s)

/-- `sc.d` (46_atomics.md rule R628). -/
def execScD (rd rs1 rs2 : Reg) (_aq _rl : BitVec 1) (s : State) : Result := .next (storeConditional 8 rd rs1 rs2 s)

/-- `amoswap.w` (46_atomics.md rule R631). -/
def execAmoswapW (rd rs1 rs2 : Reg) (_aq _rl : BitVec 1) (s : State) : Result := .next (amo .swap 4 rd rs1 rs2 s)

/-- `amoadd.w` (46_atomics.md rule R632). -/
def execAmoaddW (rd rs1 rs2 : Reg) (_aq _rl : BitVec 1) (s : State) : Result := .next (amo .add 4 rd rs1 rs2 s)

/-- `amoxor.w` (46_atomics.md rule R633). -/
def execAmoxorW (rd rs1 rs2 : Reg) (_aq _rl : BitVec 1) (s : State) : Result := .next (amo .xor 4 rd rs1 rs2 s)

/-- `amoand.w` (46_atomics.md rule R634). -/
def execAmoandW (rd rs1 rs2 : Reg) (_aq _rl : BitVec 1) (s : State) : Result := .next (amo .and 4 rd rs1 rs2 s)

/-- `amoor.w` (46_atomics.md rule R635). -/
def execAmoorW (rd rs1 rs2 : Reg) (_aq _rl : BitVec 1) (s : State) : Result := .next (amo .or 4 rd rs1 rs2 s)

/-- `amomin.w` (46_atomics.md rule R636). -/
def execAmominW (rd rs1 rs2 : Reg) (_aq _rl : BitVec 1) (s : State) : Result := .next (amo .min 4 rd rs1 rs2 s)

/-- `amomax.w` (46_atomics.md rule R637). -/
def execAmomaxW (rd rs1 rs2 : Reg) (_aq _rl : BitVec 1) (s : State) : Result := .next (amo .max 4 rd rs1 rs2 s)

/-- `amominu.w` (46_atomics.md rule R638). -/
def execAmominuW (rd rs1 rs2 : Reg) (_aq _rl : BitVec 1) (s : State) : Result := .next (amo .minu 4 rd rs1 rs2 s)

/-- `amomaxu.w` (46_atomics.md rule R639). -/
def execAmomaxuW (rd rs1 rs2 : Reg) (_aq _rl : BitVec 1) (s : State) : Result := .next (amo .maxu 4 rd rs1 rs2 s)

/-- `amoswap.d` (46_atomics.md rule R640). -/
def execAmoswapD (rd rs1 rs2 : Reg) (_aq _rl : BitVec 1) (s : State) : Result := .next (amo .swap 8 rd rs1 rs2 s)

/-- `amoadd.d` (46_atomics.md rule R641). -/
def execAmoaddD (rd rs1 rs2 : Reg) (_aq _rl : BitVec 1) (s : State) : Result := .next (amo .add 8 rd rs1 rs2 s)

/-- `amoxor.d` (46_atomics.md rule R642). -/
def execAmoxorD (rd rs1 rs2 : Reg) (_aq _rl : BitVec 1) (s : State) : Result := .next (amo .xor 8 rd rs1 rs2 s)

/-- `amoand.d` (46_atomics.md rule R643). -/
def execAmoandD (rd rs1 rs2 : Reg) (_aq _rl : BitVec 1) (s : State) : Result := .next (amo .and 8 rd rs1 rs2 s)

/-- `amoor.d` (46_atomics.md rule R644). -/
def execAmoorD (rd rs1 rs2 : Reg) (_aq _rl : BitVec 1) (s : State) : Result := .next (amo .or 8 rd rs1 rs2 s)

/-- `amomin.d` (46_atomics.md rule R645). -/
def execAmominD (rd rs1 rs2 : Reg) (_aq _rl : BitVec 1) (s : State) : Result := .next (amo .min 8 rd rs1 rs2 s)

/-- `amomax.d` (46_atomics.md rule R646). -/
def execAmomaxD (rd rs1 rs2 : Reg) (_aq _rl : BitVec 1) (s : State) : Result := .next (amo .max 8 rd rs1 rs2 s)

/-- `amominu.d` (46_atomics.md rule R647). -/
def execAmominuD (rd rs1 rs2 : Reg) (_aq _rl : BitVec 1) (s : State) : Result := .next (amo .minu 8 rd rs1 rs2 s)

/-- `amomaxu.d` (46_atomics.md rule R648). -/
def execAmomaxuD (rd rs1 rs2 : Reg) (_aq _rl : BitVec 1) (s : State) : Result := .next (amo .maxu 8 rd rs1 rs2 s)

end Sys2Proof.Machine
end

