-- ==== Sys2Proof/Syntax.lean ====
section
/-!
DEFINITION. Syntax.lean: the instructions of the hart, one constructor for every mnemonic of spec/opcode_table.json,
in the table's order. An operand is a field of the encoding as 30_encoding.md numbers it: an immediate is assembled in
order of significance and leaves out its implicit zero bits (rules R340 to R346, R382), so that every operand value is
one the encoding can hold.
-/

namespace Sys2Proof

/-- The instructions of spec/opcode_table.json. -/
inductive Instr where
  -- Integer computation
  /-- `lui`, rule R451. -/
  | lui (rd : Reg) (imm : BitVec 20)
  /-- `auipc`, rule R452. -/
  | auipc (rd : Reg) (imm : BitVec 20)
  -- Control transfer
  /-- `jal`, rule R501. -/
  | jal (rd : Reg) (imm : BitVec 20)
  /-- `jalr`, rule R502. -/
  | jalr (rd rs1 : Reg) (imm : BitVec 12)
  /-- `beq`, rule R504. -/
  | beq (rs1 rs2 : Reg) (imm : BitVec 12)
  /-- `bne`, rule R505. -/
  | bne (rs1 rs2 : Reg) (imm : BitVec 12)
  /-- `blt`, rule R506. -/
  | blt (rs1 rs2 : Reg) (imm : BitVec 12)
  /-- `bge`, rule R507. -/
  | bge (rs1 rs2 : Reg) (imm : BitVec 12)
  /-- `bltu`, rule R508. -/
  | bltu (rs1 rs2 : Reg) (imm : BitVec 12)
  /-- `bgeu`, rule R509. -/
  | bgeu (rs1 rs2 : Reg) (imm : BitVec 12)
  -- Integer loads and stores
  /-- `lb`, rule R523. -/
  | lb (rd rs1 : Reg) (imm : BitVec 12)
  /-- `lh`, rule R524. -/
  | lh (rd rs1 : Reg) (imm : BitVec 12)
  /-- `lw`, rule R525. -/
  | lw (rd rs1 : Reg) (imm : BitVec 12)
  /-- `lbu`, rule R526. -/
  | lbu (rd rs1 : Reg) (imm : BitVec 12)
  /-- `lhu`, rule R527. -/
  | lhu (rd rs1 : Reg) (imm : BitVec 12)
  /-- `lwu`, rule R528. -/
  | lwu (rd rs1 : Reg) (imm : BitVec 12)
  /-- `ld`, rule R529. -/
  | ld (rd rs1 : Reg) (imm : BitVec 12)
  /-- `sb`, rule R530. -/
  | sb (rs1 rs2 : Reg) (imm : BitVec 12)
  /-- `sh`, rule R531. -/
  | sh (rs1 rs2 : Reg) (imm : BitVec 12)
  /-- `sw`, rule R532. -/
  | sw (rs1 rs2 : Reg) (imm : BitVec 12)
  /-- `sd`, rule R533. -/
  | sd (rs1 rs2 : Reg) (imm : BitVec 12)
  -- Integer computation
  /-- `addi`, rule R453. -/
  | addi (rd rs1 : Reg) (imm : BitVec 12)
  /-- `slti`, rule R454. -/
  | slti (rd rs1 : Reg) (imm : BitVec 12)
  /-- `sltiu`, rule R455. -/
  | sltiu (rd rs1 : Reg) (imm : BitVec 12)
  /-- `xori`, rule R456. -/
  | xori (rd rs1 : Reg) (imm : BitVec 12)
  /-- `ori`, rule R457. -/
  | ori (rd rs1 : Reg) (imm : BitVec 12)
  /-- `andi`, rule R458. -/
  | andi (rd rs1 : Reg) (imm : BitVec 12)
  /-- `slli`, rule R459. -/
  | slli (rd rs1 : Reg) (shamt : BitVec 6)
  /-- `srli`, rule R460. -/
  | srli (rd rs1 : Reg) (shamt : BitVec 6)
  /-- `srai`, rule R461. -/
  | srai (rd rs1 : Reg) (shamt : BitVec 6)
  /-- `add`, rule R462. -/
  | add (rd rs1 rs2 : Reg)
  /-- `sub`, rule R463. -/
  | sub (rd rs1 rs2 : Reg)
  /-- `sll`, rule R464. -/
  | sll (rd rs1 rs2 : Reg)
  /-- `slt`, rule R465. -/
  | slt (rd rs1 rs2 : Reg)
  /-- `sltu`, rule R466. -/
  | sltu (rd rs1 rs2 : Reg)
  /-- `xor`, rule R467. -/
  | xor (rd rs1 rs2 : Reg)
  /-- `srl`, rule R468. -/
  | srl (rd rs1 rs2 : Reg)
  /-- `sra`, rule R469. -/
  | sra (rd rs1 rs2 : Reg)
  /-- `or`, rule R470. -/
  | or (rd rs1 rs2 : Reg)
  /-- `and`, rule R471. -/
  | and (rd rs1 rs2 : Reg)
  /-- `addiw`, rule R472. -/
  | addiw (rd rs1 : Reg) (imm : BitVec 12)
  /-- `slliw`, rule R473. -/
  | slliw (rd rs1 : Reg) (shamt : BitVec 5)
  /-- `srliw`, rule R474. -/
  | srliw (rd rs1 : Reg) (shamt : BitVec 5)
  /-- `sraiw`, rule R475. -/
  | sraiw (rd rs1 : Reg) (shamt : BitVec 5)
  /-- `addw`, rule R476. -/
  | addw (rd rs1 rs2 : Reg)
  /-- `subw`, rule R477. -/
  | subw (rd rs1 rs2 : Reg)
  /-- `sllw`, rule R478. -/
  | sllw (rd rs1 rs2 : Reg)
  /-- `srlw`, rule R479. -/
  | srlw (rd rs1 rs2 : Reg)
  /-- `sraw`, rule R480. -/
  | sraw (rd rs1 rs2 : Reg)
  -- Multiply and divide
  /-- `mul`, rule R591. -/
  | mul (rd rs1 rs2 : Reg)
  /-- `mulh`, rule R592. -/
  | mulh (rd rs1 rs2 : Reg)
  /-- `mulhsu`, rule R593. -/
  | mulhsu (rd rs1 rs2 : Reg)
  /-- `mulhu`, rule R594. -/
  | mulhu (rd rs1 rs2 : Reg)
  /-- `div`, rule R595. -/
  | div (rd rs1 rs2 : Reg)
  /-- `divu`, rule R596. -/
  | divu (rd rs1 rs2 : Reg)
  /-- `rem`, rule R597. -/
  | rem (rd rs1 rs2 : Reg)
  /-- `remu`, rule R598. -/
  | remu (rd rs1 rs2 : Reg)
  /-- `mulw`, rule R599. -/
  | mulw (rd rs1 rs2 : Reg)
  /-- `divw`, rule R600. -/
  | divw (rd rs1 rs2 : Reg)
  /-- `divuw`, rule R601. -/
  | divuw (rd rs1 rs2 : Reg)
  /-- `remw`, rule R602. -/
  | remw (rd rs1 rs2 : Reg)
  /-- `remuw`, rule R603. -/
  | remuw (rd rs1 rs2 : Reg)
  -- System
  /-- `fence`, rule R550. -/
  | fence (fm pred succ : BitVec 4) (rs1 rd : Reg)
  /-- `fence.i`, rule R551. -/
  | fenceI (imm : BitVec 12) (rs1 rd : Reg)
  /-- `ecall`, rule R552. -/
  | ecall
  /-- `ebreak`, rule R553. -/
  | ebreak
  /-- `sret`, rule R556. -/
  | sret
  /-- `mret`, rule R555. -/
  | mret
  /-- `wfi`, rule R558. -/
  | wfi
  /-- `sfence.vma`, rule R559. -/
  | sfenceVma (rs1 rs2 : Reg)
  /-- `csrrw`, rule R573. -/
  | csrrw (rd rs1 : Reg) (csr : CsrAddr)
  /-- `csrrs`, rule R574. -/
  | csrrs (rd rs1 : Reg) (csr : CsrAddr)
  /-- `csrrc`, rule R575. -/
  | csrrc (rd rs1 : Reg) (csr : CsrAddr)
  /-- `csrrwi`, rule R576. -/
  | csrrwi (rd : Reg) (uimm : BitVec 5) (csr : CsrAddr)
  /-- `csrrsi`, rule R577. -/
  | csrrsi (rd : Reg) (uimm : BitVec 5) (csr : CsrAddr)
  /-- `csrrci`, rule R578. -/
  | csrrci (rd : Reg) (uimm : BitVec 5) (csr : CsrAddr)
  -- Atomics
  /-- `lr.w`, rule R625. -/
  | lrW (rd rs1 : Reg) (aq rl : BitVec 1)
  /-- `lr.d`, rule R626. -/
  | lrD (rd rs1 : Reg) (aq rl : BitVec 1)
  /-- `sc.w`, rule R627. -/
  | scW (rd rs1 rs2 : Reg) (aq rl : BitVec 1)
  /-- `sc.d`, rule R628. -/
  | scD (rd rs1 rs2 : Reg) (aq rl : BitVec 1)
  /-- `amoswap.w`, rule R631. -/
  | amoswapW (rd rs1 rs2 : Reg) (aq rl : BitVec 1)
  /-- `amoadd.w`, rule R632. -/
  | amoaddW (rd rs1 rs2 : Reg) (aq rl : BitVec 1)
  /-- `amoxor.w`, rule R633. -/
  | amoxorW (rd rs1 rs2 : Reg) (aq rl : BitVec 1)
  /-- `amoand.w`, rule R634. -/
  | amoandW (rd rs1 rs2 : Reg) (aq rl : BitVec 1)
  /-- `amoor.w`, rule R635. -/
  | amoorW (rd rs1 rs2 : Reg) (aq rl : BitVec 1)
  /-- `amomin.w`, rule R636. -/
  | amominW (rd rs1 rs2 : Reg) (aq rl : BitVec 1)
  /-- `amomax.w`, rule R637. -/
  | amomaxW (rd rs1 rs2 : Reg) (aq rl : BitVec 1)
  /-- `amominu.w`, rule R638. -/
  | amominuW (rd rs1 rs2 : Reg) (aq rl : BitVec 1)
  /-- `amomaxu.w`, rule R639. -/
  | amomaxuW (rd rs1 rs2 : Reg) (aq rl : BitVec 1)
  /-- `amoswap.d`, rule R640. -/
  | amoswapD (rd rs1 rs2 : Reg) (aq rl : BitVec 1)
  /-- `amoadd.d`, rule R641. -/
  | amoaddD (rd rs1 rs2 : Reg) (aq rl : BitVec 1)
  /-- `amoxor.d`, rule R642. -/
  | amoxorD (rd rs1 rs2 : Reg) (aq rl : BitVec 1)
  /-- `amoand.d`, rule R643. -/
  | amoandD (rd rs1 rs2 : Reg) (aq rl : BitVec 1)
  /-- `amoor.d`, rule R644. -/
  | amoorD (rd rs1 rs2 : Reg) (aq rl : BitVec 1)
  /-- `amomin.d`, rule R645. -/
  | amominD (rd rs1 rs2 : Reg) (aq rl : BitVec 1)
  /-- `amomax.d`, rule R646. -/
  | amomaxD (rd rs1 rs2 : Reg) (aq rl : BitVec 1)
  /-- `amominu.d`, rule R647. -/
  | amominuD (rd rs1 rs2 : Reg) (aq rl : BitVec 1)
  /-- `amomaxu.d`, rule R648. -/
  | amomaxuD (rd rs1 rs2 : Reg) (aq rl : BitVec 1)
  -- Single-precision floating point
  /-- `flw`, rule R670. -/
  | flw (rd : FReg) (rs1 : Reg) (imm : BitVec 12)
  /-- `fsw`, rule R671. -/
  | fsw (rs1 : Reg) (rs2 : FReg) (imm : BitVec 12)
  /-- `fadd.s`, rule R672. -/
  | faddS (rd rs1 rs2 : FReg) (rm : Rm)
  /-- `fsub.s`, rule R673. -/
  | fsubS (rd rs1 rs2 : FReg) (rm : Rm)
  /-- `fmul.s`, rule R674. -/
  | fmulS (rd rs1 rs2 : FReg) (rm : Rm)
  /-- `fdiv.s`, rule R675. -/
  | fdivS (rd rs1 rs2 : FReg) (rm : Rm)
  /-- `fsqrt.s`, rule R676. -/
  | fsqrtS (rd rs1 : FReg) (rm : Rm)
  /-- `fmadd.s`, rule R677. -/
  | fmaddS (rd rs1 rs2 rs3 : FReg) (rm : Rm)
  /-- `fmsub.s`, rule R678. -/
  | fmsubS (rd rs1 rs2 rs3 : FReg) (rm : Rm)
  /-- `fnmsub.s`, rule R679. -/
  | fnmsubS (rd rs1 rs2 rs3 : FReg) (rm : Rm)
  /-- `fnmadd.s`, rule R680. -/
  | fnmaddS (rd rs1 rs2 rs3 : FReg) (rm : Rm)
  /-- `fsgnj.s`, rule R681. -/
  | fsgnjS (rd rs1 rs2 : FReg)
  /-- `fsgnjn.s`, rule R682. -/
  | fsgnjnS (rd rs1 rs2 : FReg)
  /-- `fsgnjx.s`, rule R683. -/
  | fsgnjxS (rd rs1 rs2 : FReg)
  /-- `fmin.s`, rule R684. -/
  | fminS (rd rs1 rs2 : FReg)
  /-- `fmax.s`, rule R685. -/
  | fmaxS (rd rs1 rs2 : FReg)
  /-- `feq.s`, rule R686. -/
  | feqS (rd : Reg) (rs1 rs2 : FReg)
  /-- `flt.s`, rule R687. -/
  | fltS (rd : Reg) (rs1 rs2 : FReg)
  /-- `fle.s`, rule R688. -/
  | fleS (rd : Reg) (rs1 rs2 : FReg)
  /-- `fclass.s`, rule R689. -/
  | fclassS (rd : Reg) (rs1 : FReg)
  /-- `fcvt.w.s`, rule R690. -/
  | fcvtWS (rd : Reg) (rs1 : FReg) (rm : Rm)
  /-- `fcvt.wu.s`, rule R691. -/
  | fcvtWuS (rd : Reg) (rs1 : FReg) (rm : Rm)
  /-- `fcvt.l.s`, rule R692. -/
  | fcvtLS (rd : Reg) (rs1 : FReg) (rm : Rm)
  /-- `fcvt.lu.s`, rule R693. -/
  | fcvtLuS (rd : Reg) (rs1 : FReg) (rm : Rm)
  /-- `fcvt.s.w`, rule R694. -/
  | fcvtSW (rd : FReg) (rs1 : Reg) (rm : Rm)
  /-- `fcvt.s.wu`, rule R695. -/
  | fcvtSWu (rd : FReg) (rs1 : Reg) (rm : Rm)
  /-- `fcvt.s.l`, rule R696. -/
  | fcvtSL (rd : FReg) (rs1 : Reg) (rm : Rm)
  /-- `fcvt.s.lu`, rule R697. -/
  | fcvtSLu (rd : FReg) (rs1 : Reg) (rm : Rm)
  /-- `fmv.x.w`, rule R698. -/
  | fmvXW (rd : Reg) (rs1 : FReg)
  /-- `fmv.w.x`, rule R699. -/
  | fmvWX (rd : FReg) (rs1 : Reg)
  -- Double-precision floating point
  /-- `fld`, rule R721. -/
  | fld (rd : FReg) (rs1 : Reg) (imm : BitVec 12)
  /-- `fsd`, rule R722. -/
  | fsd (rs1 : Reg) (rs2 : FReg) (imm : BitVec 12)
  /-- `fadd.d`, rule R723. -/
  | faddD (rd rs1 rs2 : FReg) (rm : Rm)
  /-- `fsub.d`, rule R724. -/
  | fsubD (rd rs1 rs2 : FReg) (rm : Rm)
  /-- `fmul.d`, rule R725. -/
  | fmulD (rd rs1 rs2 : FReg) (rm : Rm)
  /-- `fdiv.d`, rule R726. -/
  | fdivD (rd rs1 rs2 : FReg) (rm : Rm)
  /-- `fsqrt.d`, rule R727. -/
  | fsqrtD (rd rs1 : FReg) (rm : Rm)
  /-- `fmadd.d`, rule R728. -/
  | fmaddD (rd rs1 rs2 rs3 : FReg) (rm : Rm)
  /-- `fmsub.d`, rule R729. -/
  | fmsubD (rd rs1 rs2 rs3 : FReg) (rm : Rm)
  /-- `fnmsub.d`, rule R730. -/
  | fnmsubD (rd rs1 rs2 rs3 : FReg) (rm : Rm)
  /-- `fnmadd.d`, rule R731. -/
  | fnmaddD (rd rs1 rs2 rs3 : FReg) (rm : Rm)
  /-- `fsgnj.d`, rule R732. -/
  | fsgnjD (rd rs1 rs2 : FReg)
  /-- `fsgnjn.d`, rule R733. -/
  | fsgnjnD (rd rs1 rs2 : FReg)
  /-- `fsgnjx.d`, rule R734. -/
  | fsgnjxD (rd rs1 rs2 : FReg)
  /-- `fmin.d`, rule R735. -/
  | fminD (rd rs1 rs2 : FReg)
  /-- `fmax.d`, rule R736. -/
  | fmaxD (rd rs1 rs2 : FReg)
  /-- `feq.d`, rule R737. -/
  | feqD (rd : Reg) (rs1 rs2 : FReg)
  /-- `flt.d`, rule R738. -/
  | fltD (rd : Reg) (rs1 rs2 : FReg)
  /-- `fle.d`, rule R739. -/
  | fleD (rd : Reg) (rs1 rs2 : FReg)
  /-- `fclass.d`, rule R740. -/
  | fclassD (rd : Reg) (rs1 : FReg)
  /-- `fcvt.s.d`, rule R741. -/
  | fcvtSD (rd rs1 : FReg) (rm : Rm)
  /-- `fcvt.d.s`, rule R742. -/
  | fcvtDS (rd rs1 : FReg) (rm : Rm)
  /-- `fcvt.w.d`, rule R743. -/
  | fcvtWD (rd : Reg) (rs1 : FReg) (rm : Rm)
  /-- `fcvt.wu.d`, rule R744. -/
  | fcvtWuD (rd : Reg) (rs1 : FReg) (rm : Rm)
  /-- `fcvt.l.d`, rule R745. -/
  | fcvtLD (rd : Reg) (rs1 : FReg) (rm : Rm)
  /-- `fcvt.lu.d`, rule R746. -/
  | fcvtLuD (rd : Reg) (rs1 : FReg) (rm : Rm)
  /-- `fcvt.d.w`, rule R747. -/
  | fcvtDW (rd : FReg) (rs1 : Reg) (rm : Rm)
  /-- `fcvt.d.wu`, rule R748. -/
  | fcvtDWu (rd : FReg) (rs1 : Reg) (rm : Rm)
  /-- `fcvt.d.l`, rule R749. -/
  | fcvtDL (rd : FReg) (rs1 : Reg) (rm : Rm)
  /-- `fcvt.d.lu`, rule R750. -/
  | fcvtDLu (rd : FReg) (rs1 : Reg) (rm : Rm)
  /-- `fmv.x.d`, rule R751. -/
  | fmvXD (rd : Reg) (rs1 : FReg)
  /-- `fmv.d.x`, rule R752. -/
  | fmvDX (rd : FReg) (rs1 : Reg)
  -- Reserved compressed encodings
  /-- `c.illegal`, rule R385. -/
  | cIllegal (w : BitVec 16)
  -- Compressed
  /-- `c.addi4spn`, rule R790. -/
  | cAddi4spn (rd : CReg) (imm : BitVec 8)
  /-- `c.fld`, rule R791. -/
  | cFld (rd : CFReg) (rs1 : CReg) (imm : BitVec 5)
  /-- `c.lw`, rule R792. -/
  | cLw (rd rs1 : CReg) (imm : BitVec 5)
  /-- `c.flw`, rule R793. -/
  | cFlw (rd : CFReg) (rs1 : CReg) (imm : BitVec 5)
  /-- `c.ld`, rule R794. -/
  | cLd (rd rs1 : CReg) (imm : BitVec 5)
  /-- `c.fsd`, rule R795. -/
  | cFsd (rs1 : CReg) (rs2 : CFReg) (imm : BitVec 5)
  /-- `c.sw`, rule R796. -/
  | cSw (rs1 rs2 : CReg) (imm : BitVec 5)
  /-- `c.fsw`, rule R797. -/
  | cFsw (rs1 : CReg) (rs2 : CFReg) (imm : BitVec 5)
  /-- `c.sd`, rule R798. -/
  | cSd (rs1 rs2 : CReg) (imm : BitVec 5)
  /-- `c.nop`, rule R800. -/
  | cNop (imm : BitVec 6)
  /-- `c.addi`, rule R801. -/
  | cAddi (rd : Reg) (imm : BitVec 6)
  /-- `c.jal`, rule R802. -/
  | cJal (imm : BitVec 11)
  /-- `c.addiw`, rule R803. -/
  | cAddiw (rd : Reg) (imm : BitVec 6)
  /-- `c.li`, rule R804. -/
  | cLi (rd : Reg) (imm : BitVec 6)
  /-- `c.addi16sp`, rule R805. -/
  | cAddi16sp (imm : BitVec 6)
  /-- `c.lui`, rule R806. -/
  | cLui (rd : Reg) (imm : BitVec 6)
  /-- `c.srli`, rule R807. -/
  | cSrli (rd : CReg) (shamt : BitVec 6)
  /-- `c.srai`, rule R808. -/
  | cSrai (rd : CReg) (shamt : BitVec 6)
  /-- `c.andi`, rule R809. -/
  | cAndi (rd : CReg) (imm : BitVec 6)
  /-- `c.sub`, rule R810. -/
  | cSub (rd rs2 : CReg)
  /-- `c.xor`, rule R811. -/
  | cXor (rd rs2 : CReg)
  /-- `c.or`, rule R812. -/
  | cOr (rd rs2 : CReg)
  /-- `c.and`, rule R813. -/
  | cAnd (rd rs2 : CReg)
  /-- `c.subw`, rule R814. -/
  | cSubw (rd rs2 : CReg)
  /-- `c.addw`, rule R815. -/
  | cAddw (rd rs2 : CReg)
  /-- `c.j`, rule R816. -/
  | cJ (imm : BitVec 11)
  /-- `c.beqz`, rule R817. -/
  | cBeqz (rs1 : CReg) (imm : BitVec 8)
  /-- `c.bnez`, rule R818. -/
  | cBnez (rs1 : CReg) (imm : BitVec 8)
  /-- `c.slli`, rule R820. -/
  | cSlli (rd : Reg) (shamt : BitVec 6)
  /-- `c.fldsp`, rule R821. -/
  | cFldsp (rd : FReg) (imm : BitVec 6)
  /-- `c.lwsp`, rule R822. -/
  | cLwsp (rd : Reg) (imm : BitVec 6)
  /-- `c.flwsp`, rule R823. -/
  | cFlwsp (rd : FReg) (imm : BitVec 6)
  /-- `c.ldsp`, rule R824. -/
  | cLdsp (rd : Reg) (imm : BitVec 6)
  /-- `c.jr`, rule R830. -/
  | cJr (rs1 : Reg)
  /-- `c.mv`, rule R831. -/
  | cMv (rd rs2 : Reg)
  /-- `c.ebreak`, rule R833. -/
  | cEbreak
  /-- `c.jalr`, rule R832. -/
  | cJalr (rs1 : Reg)
  /-- `c.add`, rule R834. -/
  | cAdd (rd rs2 : Reg)
  /-- `c.fsdsp`, rule R835. -/
  | cFsdsp (rs2 : FReg) (imm : BitVec 6)
  /-- `c.swsp`, rule R836. -/
  | cSwsp (rs2 : Reg) (imm : BitVec 6)
  /-- `c.fswsp`, rule R837. -/
  | cFswsp (rs2 : FReg) (imm : BitVec 6)
  /-- `c.sdsp`, rule R838. -/
  | cSdsp (rs2 : Reg) (imm : BitVec 6)
deriving DecidableEq, Repr

end Sys2Proof
end

