-- ==== Sys2Proof/WellFormed.lean ====
section
/-!
DEFINITION. WellFormed.lean: which instruction terms an encoding of the build stands for. A condition here is a
condition of a row of spec/opcode_table.json: the builds the row names, a field value that an earlier row of the table
takes away (a zero immediate or register), or a shift amount beyond XLEN (30_encoding.md rules R345, R384, R385).
-/

namespace Sys2Proof

/-- With XLEN = 32 a shift amount has its top bit clear (30_encoding.md rules R345, R384). -/
def shamtOk (xl : Xlen) (shamt : BitVec 6) : Bool :=
  match xl with
  | .rv32 => !shamt.msb
  | .rv64 => true

/-- One row of the opcode table: a word matches when `w & mask == pattern` (30_encoding.md rule R331). -/
structure Row16 where
  xlens   : List Xlen
  pattern : BitVec 16
  mask    : BitVec 16
deriving DecidableEq, Repr

/-- The rows whose mnemonic is `c.illegal`, in the table's order, but for the one that has the rows of `c.subw` and
`c.addw` before it: that row is split here by XLEN (30_encoding.md rule R385). -/
def reservedRows16 : List Row16 :=
  [ ⟨[.rv32, .rv64], 0x0000, 0xFFFF⟩, ⟨[.rv32, .rv64], 0x0000, 0xFFE3⟩, ⟨[.rv32, .rv64], 0x8000, 0xE003⟩,
    ⟨[.rv64], 0x2001, 0xEF83⟩, ⟨[.rv32, .rv64], 0x6001, 0xF07F⟩, ⟨[.rv32], 0x9001, 0xFC03⟩, ⟨[.rv32], 0x9401, 0xFC03⟩,
    ⟨[.rv32], 0x9C01, 0xFC03⟩, ⟨[.rv64], 0x9C41, 0xFC43⟩, ⟨[.rv32], 0x1002, 0xF003⟩, ⟨[.rv32, .rv64], 0x4002, 0xEF83⟩,
    ⟨[.rv64], 0x6002, 0xEF83⟩, ⟨[.rv32, .rv64], 0x8002, 0xFFFF⟩ ]

/-- A reserved compressed encoding of the build (30_encoding.md rule R385). -/
def reserved16 (xl : Xlen) (w : BitVec 16) : Bool :=
  reservedRows16.any (fun r => r.xlens.contains xl && (w &&& r.mask) == r.pattern)

/-- The build has an encoding for this instruction term. -/
def Instr.wf (xl : Xlen) : Instr → Bool
  | .lui _ _ | .auipc _ _ | .jal _ _ | .jalr _ _ _ | .beq _ _ _ | .bne _ _ _ | .blt _ _ _ | .bge _ _ _
  | .bltu _ _ _ | .bgeu _ _ _ | .lb _ _ _ | .lh _ _ _ | .lw _ _ _ | .lbu _ _ _ | .lhu _ _ _ | .sb _ _ _ | .sh _ _ _
  | .sw _ _ _ | .addi _ _ _ | .slti _ _ _ | .sltiu _ _ _ | .xori _ _ _ | .ori _ _ _ | .andi _ _ _ | .add _ _ _
  | .sub _ _ _ | .sll _ _ _ | .slt _ _ _ | .sltu _ _ _ | .xor _ _ _ | .srl _ _ _ | .sra _ _ _ | .or _ _ _
  | .and _ _ _ | .mul _ _ _ | .mulh _ _ _ | .mulhsu _ _ _ | .mulhu _ _ _ | .div _ _ _ | .divu _ _ _ | .rem _ _ _
  | .remu _ _ _ | .fence _ _ _ _ _ | .fenceI _ _ _ | .ecall | .ebreak | .sret | .mret | .wfi | .sfenceVma _ _
  | .csrrw _ _ _ | .csrrs _ _ _ | .csrrc _ _ _ | .csrrwi _ _ _ | .csrrsi _ _ _ | .csrrci _ _ _ | .lrW _ _ _ _
  | .scW _ _ _ _ _ | .amoswapW _ _ _ _ _ | .amoaddW _ _ _ _ _ | .amoxorW _ _ _ _ _ | .amoandW _ _ _ _ _
  | .amoorW _ _ _ _ _ | .amominW _ _ _ _ _ | .amomaxW _ _ _ _ _ | .amominuW _ _ _ _ _ | .amomaxuW _ _ _ _ _
  | .flw _ _ _ | .fsw _ _ _ | .faddS _ _ _ _ | .fsubS _ _ _ _ | .fmulS _ _ _ _ | .fdivS _ _ _ _ | .fsqrtS _ _ _
  | .fmaddS _ _ _ _ _ | .fmsubS _ _ _ _ _ | .fnmsubS _ _ _ _ _ | .fnmaddS _ _ _ _ _ | .fsgnjS _ _ _
  | .fsgnjnS _ _ _ | .fsgnjxS _ _ _ | .fminS _ _ _ | .fmaxS _ _ _ | .feqS _ _ _ | .fltS _ _ _ | .fleS _ _ _
  | .fclassS _ _ | .fcvtWS _ _ _ | .fcvtWuS _ _ _ | .fcvtSW _ _ _ | .fcvtSWu _ _ _ | .fmvXW _ _ | .fmvWX _ _
  | .fld _ _ _ | .fsd _ _ _ | .faddD _ _ _ _ | .fsubD _ _ _ _ | .fmulD _ _ _ _ | .fdivD _ _ _ _ | .fsqrtD _ _ _
  | .fmaddD _ _ _ _ _ | .fmsubD _ _ _ _ _ | .fnmsubD _ _ _ _ _ | .fnmaddD _ _ _ _ _ | .fsgnjD _ _ _
  | .fsgnjnD _ _ _ | .fsgnjxD _ _ _ | .fminD _ _ _ | .fmaxD _ _ _ | .feqD _ _ _ | .fltD _ _ _ | .fleD _ _ _
  | .fclassD _ _ | .fcvtSD _ _ _ | .fcvtDS _ _ _ | .fcvtWD _ _ _ | .fcvtWuD _ _ _ | .fcvtDW _ _ _ | .fcvtDWu _ _ _
  | .cFld _ _ _ | .cLw _ _ _ | .cFsd _ _ _ | .cSw _ _ _ | .cNop _ | .cLi _ _ | .cAndi _ _ | .cSub _ _ | .cXor _ _
  | .cOr _ _ | .cAnd _ _ | .cJ _ | .cBeqz _ _ | .cBnez _ _ | .cFldsp _ _ | .cEbreak | .cFsdsp _ _ | .cSwsp _ _ => true
  | .lwu _ _ _ | .ld _ _ _ | .sd _ _ _ | .addiw _ _ _ | .slliw _ _ _ | .srliw _ _ _ | .sraiw _ _ _ | .addw _ _ _
  | .subw _ _ _ | .sllw _ _ _ | .srlw _ _ _ | .sraw _ _ _ | .mulw _ _ _ | .divw _ _ _ | .divuw _ _ _ | .remw _ _ _
  | .remuw _ _ _ | .lrD _ _ _ _ | .scD _ _ _ _ _ | .amoswapD _ _ _ _ _ | .amoaddD _ _ _ _ _ | .amoxorD _ _ _ _ _
  | .amoandD _ _ _ _ _ | .amoorD _ _ _ _ _ | .amominD _ _ _ _ _ | .amomaxD _ _ _ _ _ | .amominuD _ _ _ _ _
  | .amomaxuD _ _ _ _ _ | .fcvtLS _ _ _ | .fcvtLuS _ _ _ | .fcvtSL _ _ _ | .fcvtSLu _ _ _ | .fcvtLD _ _ _
  | .fcvtLuD _ _ _ | .fcvtDL _ _ _ | .fcvtDLu _ _ _ | .fmvXD _ _ | .fmvDX _ _ | .cLd _ _ _ | .cSd _ _ _
  | .cSubw _ _ | .cAddw _ _ | .cSdsp _ _ => xl == .rv64
  | .slli _ _ shamt | .srli _ _ shamt | .srai _ _ shamt | .cSrli _ shamt | .cSrai _ shamt | .cSlli _ shamt => shamtOk xl shamt
  | .cIllegal w => reserved16 xl w
  | .cAddi4spn _ imm | .cAddi16sp imm => imm != 0
  | .cFlw _ _ _ | .cFsw _ _ _ | .cJal _ | .cFlwsp _ _ | .cFswsp _ _ => xl == .rv32
  | .cAddi rd _ | .cLwsp rd _ => rd != 0
  | .cAddiw rd _ | .cLdsp rd _ => xl == .rv64 && rd != 0
  | .cLui rd imm => rd != 2 && imm != 0
  | .cJr rs1 | .cJalr rs1 => rs1 != 0
  | .cMv _ rs2 | .cAdd _ rs2 => rs2 != 0

end Sys2Proof
end

