-- ==== Sys2Proof/Decode.lean ====
section
/-!
DEFINITION. Decode.lean: the two decoders and the encoder (30_encoding.md). Decoding is total and rejects by name. It
follows the opcode map of rules R350 to R358 and R383, field by field; the encoder is written from the formats of
rules R333 and R380 and the same rows.
-/

namespace Sys2Proof

/-- Why bytes are no instruction. -/
inductive DecodeError where
  /-- A 32-bit word that matches no pattern (rules R370 to R372). -/
  | noPattern32 (w : BitVec 32)
  /-- A 16-bit parcel that matches no pattern (rule R370). -/
  | noPattern16 (c : BitVec 16)
  /-- Fewer bytes than the instruction's length (rule R330). -/
  | truncated
deriving DecidableEq, Repr

/-! ### Fields of a 32-bit word (rules R333, R340 to R346) -/

/-- `insn[6:0]`. -/
def fOpcode (w : BitVec 32) : BitVec 7 := w.extractLsb' 0 7
/-- `insn[11:7]`. -/
def fRd (w : BitVec 32) : BitVec 5 := w.extractLsb' 7 5
/-- `insn[14:12]`, a function code or a rounding mode. -/
def fFunct3 (w : BitVec 32) : BitVec 3 := w.extractLsb' 12 3
/-- `insn[19:15]`. -/
def fRs1 (w : BitVec 32) : BitVec 5 := w.extractLsb' 15 5
/-- `insn[24:20]`. -/
def fRs2 (w : BitVec 32) : BitVec 5 := w.extractLsb' 20 5
/-- `insn[31:25]`. -/
def fFunct7 (w : BitVec 32) : BitVec 7 := w.extractLsb' 25 7
/-- `insn[31:27]`, the funct5 of AMO and FP-R words and the `rs3` of R4 words. -/
def fFunct5 (w : BitVec 32) : BitVec 5 := w.extractLsb' 27 5
/-- `insn[26:25]`, the format of a floating-point word (rule R358). -/
def fFmt (w : BitVec 32) : BitVec 2 := w.extractLsb' 25 2
/-- `insn[26]` (rule R346). -/
def fAq (w : BitVec 32) : BitVec 1 := w.extractLsb' 26 1
/-- `insn[25]` (rule R346). -/
def fRl (w : BitVec 32) : BitVec 1 := w.extractLsb' 25 1
/-- `insn[31:20]`, the I-immediate or a CSR address (rules R340, R346). -/
def fImmI (w : BitVec 32) : BitVec 12 := w.extractLsb' 20 12
/-- The S-immediate (rule R341). -/
def fImmS (w : BitVec 32) : BitVec 12 := w.extractLsb' 25 7 ++ w.extractLsb' 7 5
/-- Bits 12:1 of the B-immediate (rule R342). -/
def fImmB (w : BitVec 32) : BitVec 12 :=
  w.extractLsb' 31 1 ++ w.extractLsb' 7 1 ++ w.extractLsb' 25 6 ++ w.extractLsb' 8 4
/-- Bits 31:12 of the U-immediate (rule R343). -/
def fImmU (w : BitVec 32) : BitVec 20 := w.extractLsb' 12 20
/-- Bits 20:1 of the J-immediate (rule R344). -/
def fImmJ (w : BitVec 32) : BitVec 20 :=
  w.extractLsb' 31 1 ++ w.extractLsb' 12 8 ++ w.extractLsb' 20 1 ++ w.extractLsb' 21 10
/-- `insn[25:20]`, the shift amount of an XLEN = 64 build (rule R345). -/
def fShamt (w : BitVec 32) : BitVec 6 := w.extractLsb' 20 6
/-- `insn[31:26]`, the funct6 of a shift immediate (rule R345). -/
def fFunct6 (w : BitVec 32) : BitVec 6 := w.extractLsb' 26 6

/-! ### The 32-bit decoder (rules R350 to R358) -/

/-- An encoding that exists with XLEN = 64 only (rule R384). -/
def only64 (xl : Xlen) (i : Instr) : Option Instr :=
  match xl with
  | .rv32 => none
  | .rv64 => some i

/-- An encoding that exists with XLEN = 32 only (rule R384). -/
def only32 (xl : Xlen) (i : Instr) : Option Instr :=
  match xl with
  | .rv32 => some i
  | .rv64 => none

/-- LOAD (rule R351). -/
def decodeLoad (xl : Xlen) (w : BitVec 32) : Option Instr :=
  match fFunct3 w with
  | 0#3 => some (.lb (fRd w) (fRs1 w) (fImmI w))
  | 1#3 => some (.lh (fRd w) (fRs1 w) (fImmI w))
  | 2#3 => some (.lw (fRd w) (fRs1 w) (fImmI w))
  | 3#3 => only64 xl (.ld (fRd w) (fRs1 w) (fImmI w))
  | 4#3 => some (.lbu (fRd w) (fRs1 w) (fImmI w))
  | 5#3 => some (.lhu (fRd w) (fRs1 w) (fImmI w))
  | 6#3 => only64 xl (.lwu (fRd w) (fRs1 w) (fImmI w))
  | _ => none

/-- STORE (rule R351). -/
def decodeStore (xl : Xlen) (w : BitVec 32) : Option Instr :=
  match fFunct3 w with
  | 0#3 => some (.sb (fRs1 w) (fRs2 w) (fImmS w))
  | 1#3 => some (.sh (fRs1 w) (fRs2 w) (fImmS w))
  | 2#3 => some (.sw (fRs1 w) (fRs2 w) (fImmS w))
  | 3#3 => only64 xl (.sd (fRs1 w) (fRs2 w) (fImmS w))
  | _ => none

/-- LOAD-FP (rule R351). -/
def decodeLoadFp (w : BitVec 32) : Option Instr :=
  match fFunct3 w with
  | 2#3 => some (.flw (fRd w) (fRs1 w) (fImmI w))
  | 3#3 => some (.fld (fRd w) (fRs1 w) (fImmI w))
  | _ => none

/-- STORE-FP (rule R351). -/
def decodeStoreFp (w : BitVec 32) : Option Instr :=
  match fFunct3 w with
  | 2#3 => some (.fsw (fRs1 w) (fRs2 w) (fImmS w))
  | 3#3 => some (.fsd (fRs1 w) (fRs2 w) (fImmS w))
  | _ => none

/-- The amount of a shift immediate: with XLEN = 32 a set `insn[25]` matches no pattern (rule R345). -/
def shiftAmount (xl : Xlen) (w : BitVec 32) (i : BitVec 6 → Instr) : Option Instr :=
  if shamtOk xl (fShamt w) then some (i (fShamt w)) else none

/-- OP-IMM (rule R352). -/
def decodeOpImm (xl : Xlen) (w : BitVec 32) : Option Instr :=
  match fFunct3 w with
  | 0#3 => some (.addi (fRd w) (fRs1 w) (fImmI w))
  | 1#3 => if fFunct6 w = 0b000000#6 then shiftAmount xl w (.slli (fRd w) (fRs1 w)) else none
  | 2#3 => some (.slti (fRd w) (fRs1 w) (fImmI w))
  | 3#3 => some (.sltiu (fRd w) (fRs1 w) (fImmI w))
  | 4#3 => some (.xori (fRd w) (fRs1 w) (fImmI w))
  | 5#3 =>
    if fFunct6 w = 0b000000#6 then shiftAmount xl w (.srli (fRd w) (fRs1 w))
    else if fFunct6 w = 0b010000#6 then shiftAmount xl w (.srai (fRd w) (fRs1 w)) else none
  | 6#3 => some (.ori (fRd w) (fRs1 w) (fImmI w))
  | _ => some (.andi (fRd w) (fRs1 w) (fImmI w))

/-- OP-IMM-32 (rule R352). -/
def decodeOpImm32 (xl : Xlen) (w : BitVec 32) : Option Instr :=
  match fFunct3 w, fFunct7 w with
  | 0#3, _ => only64 xl (.addiw (fRd w) (fRs1 w) (fImmI w))
  | 1#3, 0b0000000#7 => only64 xl (.slliw (fRd w) (fRs1 w) (fRs2 w))
  | 5#3, 0b0000000#7 => only64 xl (.srliw (fRd w) (fRs1 w) (fRs2 w))
  | 5#3, 0b0100000#7 => only64 xl (.sraiw (fRd w) (fRs1 w) (fRs2 w))
  | _, _ => none

/-- OP (rule R353). -/
def decodeOp (w : BitVec 32) : Option Instr :=
  match fFunct7 w, fFunct3 w with
  | 0b0000000#7, 0#3 => some (.add (fRd w) (fRs1 w) (fRs2 w))
  | 0b0100000#7, 0#3 => some (.sub (fRd w) (fRs1 w) (fRs2 w))
  | 0b0000000#7, 1#3 => some (.sll (fRd w) (fRs1 w) (fRs2 w))
  | 0b0000000#7, 2#3 => some (.slt (fRd w) (fRs1 w) (fRs2 w))
  | 0b0000000#7, 3#3 => some (.sltu (fRd w) (fRs1 w) (fRs2 w))
  | 0b0000000#7, 4#3 => some (.xor (fRd w) (fRs1 w) (fRs2 w))
  | 0b0000000#7, 5#3 => some (.srl (fRd w) (fRs1 w) (fRs2 w))
  | 0b0100000#7, 5#3 => some (.sra (fRd w) (fRs1 w) (fRs2 w))
  | 0b0000000#7, 6#3 => some (.or (fRd w) (fRs1 w) (fRs2 w))
  | 0b0000000#7, 7#3 => some (.and (fRd w) (fRs1 w) (fRs2 w))
  | 0b0000001#7, 0#3 => some (.mul (fRd w) (fRs1 w) (fRs2 w))
  | 0b0000001#7, 1#3 => some (.mulh (fRd w) (fRs1 w) (fRs2 w))
  | 0b0000001#7, 2#3 => some (.mulhsu (fRd w) (fRs1 w) (fRs2 w))
  | 0b0000001#7, 3#3 => some (.mulhu (fRd w) (fRs1 w) (fRs2 w))
  | 0b0000001#7, 4#3 => some (.div (fRd w) (fRs1 w) (fRs2 w))
  | 0b0000001#7, 5#3 => some (.divu (fRd w) (fRs1 w) (fRs2 w))
  | 0b0000001#7, 6#3 => some (.rem (fRd w) (fRs1 w) (fRs2 w))
  | 0b0000001#7, 7#3 => some (.remu (fRd w) (fRs1 w) (fRs2 w))
  | _, _ => none

/-- OP-32 (rule R353). -/
def decodeOp32 (xl : Xlen) (w : BitVec 32) : Option Instr :=
  match fFunct7 w, fFunct3 w with
  | 0b0000000#7, 0#3 => only64 xl (.addw (fRd w) (fRs1 w) (fRs2 w))
  | 0b0100000#7, 0#3 => only64 xl (.subw (fRd w) (fRs1 w) (fRs2 w))
  | 0b0000000#7, 1#3 => only64 xl (.sllw (fRd w) (fRs1 w) (fRs2 w))
  | 0b0000000#7, 5#3 => only64 xl (.srlw (fRd w) (fRs1 w) (fRs2 w))
  | 0b0100000#7, 5#3 => only64 xl (.sraw (fRd w) (fRs1 w) (fRs2 w))
  | 0b0000001#7, 0#3 => only64 xl (.mulw (fRd w) (fRs1 w) (fRs2 w))
  | 0b0000001#7, 4#3 => only64 xl (.divw (fRd w) (fRs1 w) (fRs2 w))
  | 0b0000001#7, 5#3 => only64 xl (.divuw (fRd w) (fRs1 w) (fRs2 w))
  | 0b0000001#7, 6#3 => only64 xl (.remw (fRd w) (fRs1 w) (fRs2 w))
  | 0b0000001#7, 7#3 => only64 xl (.remuw (fRd w) (fRs1 w) (fRs2 w))
  | _, _ => none

/-- BRANCH (rule R354). -/
def decodeBranch (w : BitVec 32) : Option Instr :=
  match fFunct3 w with
  | 0#3 => some (.beq (fRs1 w) (fRs2 w) (fImmB w))
  | 1#3 => some (.bne (fRs1 w) (fRs2 w) (fImmB w))
  | 4#3 => some (.blt (fRs1 w) (fRs2 w) (fImmB w))
  | 5#3 => some (.bge (fRs1 w) (fRs2 w) (fImmB w))
  | 6#3 => some (.bltu (fRs1 w) (fRs2 w) (fImmB w))
  | 7#3 => some (.bgeu (fRs1 w) (fRs2 w) (fImmB w))
  | _ => none

/-- MISC-MEM: the fields the hart ignores are kept as operands (rule R355). -/
def decodeMiscMem (w : BitVec 32) : Option Instr :=
  match fFunct3 w with
  | 0#3 => some (.fence (w.extractLsb' 28 4) (w.extractLsb' 24 4) (w.extractLsb' 20 4) (fRs1 w) (fRd w))
  | 1#3 => some (.fenceI (fImmI w) (fRs1 w) (fRd w))
  | _ => none

/-- SYSTEM with funct3 = 000: the six patterns of rule R356. -/
def decodeSystem0 (w : BitVec 32) : Option Instr :=
  if w = 0x00000073#32 then some .ecall
  else if w = 0x00100073#32 then some .ebreak
  else if w = 0x10200073#32 then some .sret
  else if w = 0x30200073#32 then some .mret
  else if w = 0x10500073#32 then some .wfi
  else if fFunct7 w = 0b0001001#7 ∧ fRd w = 0#5 then some (.sfenceVma (fRs1 w) (fRs2 w))
  else none

/-- SYSTEM (rule R356). -/
def decodeSystem (w : BitVec 32) : Option Instr :=
  match fFunct3 w with
  | 0#3 => decodeSystem0 w
  | 1#3 => some (.csrrw (fRd w) (fRs1 w) (fImmI w))
  | 2#3 => some (.csrrs (fRd w) (fRs1 w) (fImmI w))
  | 3#3 => some (.csrrc (fRd w) (fRs1 w) (fImmI w))
  | 5#3 => some (.csrrwi (fRd w) (fRs1 w) (fImmI w))
  | 6#3 => some (.csrrsi (fRd w) (fRs1 w) (fImmI w))
  | 7#3 => some (.csrrci (fRd w) (fRs1 w) (fImmI w))
  | _ => none

/-- AMO with funct3 = 010, by funct5 (rule R357). -/
def decodeAmoW (w : BitVec 32) : Option Instr :=
  match fFunct5 w with
  | 0b00010#5 => if fRs2 w = 0#5 then some (.lrW (fRd w) (fRs1 w) (fAq w) (fRl w)) else none
  | 0b00011#5 => some (.scW (fRd w) (fRs1 w) (fRs2 w) (fAq w) (fRl w))
  | 0b00001#5 => some (.amoswapW (fRd w) (fRs1 w) (fRs2 w) (fAq w) (fRl w))
  | 0b00000#5 => some (.amoaddW (fRd w) (fRs1 w) (fRs2 w) (fAq w) (fRl w))
  | 0b00100#5 => some (.amoxorW (fRd w) (fRs1 w) (fRs2 w) (fAq w) (fRl w))
  | 0b01100#5 => some (.amoandW (fRd w) (fRs1 w) (fRs2 w) (fAq w) (fRl w))
  | 0b01000#5 => some (.amoorW (fRd w) (fRs1 w) (fRs2 w) (fAq w) (fRl w))
  | 0b10000#5 => some (.amominW (fRd w) (fRs1 w) (fRs2 w) (fAq w) (fRl w))
  | 0b10100#5 => some (.amomaxW (fRd w) (fRs1 w) (fRs2 w) (fAq w) (fRl w))
  | 0b11000#5 => some (.amominuW (fRd w) (fRs1 w) (fRs2 w) (fAq w) (fRl w))
  | 0b11100#5 => some (.amomaxuW (fRd w) (fRs1 w) (fRs2 w) (fAq w) (fRl w))
  | _ => none

/-- AMO with funct3 = 011, by funct5 (rule R357). -/
def decodeAmoD (xl : Xlen) (w : BitVec 32) : Option Instr :=
  match fFunct5 w with
  | 0b00010#5 => if fRs2 w = 0#5 then only64 xl (.lrD (fRd w) (fRs1 w) (fAq w) (fRl w)) else none
  | 0b00011#5 => only64 xl (.scD (fRd w) (fRs1 w) (fRs2 w) (fAq w) (fRl w))
  | 0b00001#5 => only64 xl (.amoswapD (fRd w) (fRs1 w) (fRs2 w) (fAq w) (fRl w))
  | 0b00000#5 => only64 xl (.amoaddD (fRd w) (fRs1 w) (fRs2 w) (fAq w) (fRl w))
  | 0b00100#5 => only64 xl (.amoxorD (fRd w) (fRs1 w) (fRs2 w) (fAq w) (fRl w))
  | 0b01100#5 => only64 xl (.amoandD (fRd w) (fRs1 w) (fRs2 w) (fAq w) (fRl w))
  | 0b01000#5 => only64 xl (.amoorD (fRd w) (fRs1 w) (fRs2 w) (fAq w) (fRl w))
  | 0b10000#5 => only64 xl (.amominD (fRd w) (fRs1 w) (fRs2 w) (fAq w) (fRl w))
  | 0b10100#5 => only64 xl (.amomaxD (fRd w) (fRs1 w) (fRs2 w) (fAq w) (fRl w))
  | 0b11000#5 => only64 xl (.amominuD (fRd w) (fRs1 w) (fRs2 w) (fAq w) (fRl w))
  | 0b11100#5 => only64 xl (.amomaxuD (fRd w) (fRs1 w) (fRs2 w) (fAq w) (fRl w))
  | _ => none

/-- AMO (rule R357). -/
def decodeAmo (xl : Xlen) (w : BitVec 32) : Option Instr :=
  match fFunct3 w with
  | 2#3 => decodeAmoW w
  | 3#3 => decodeAmoD xl w
  | _ => none

/-- MADD, MSUB, NMSUB, NMADD: format R4, by `fmt` (rule R358). -/
def decodeFma (w : BitVec 32) (single double : FReg → FReg → FReg → FReg → Rm → Instr) : Option Instr :=
  match fFmt w with
  | 0#2 => some (single (fRd w) (fRs1 w) (fRs2 w) (fFunct5 w) (fFunct3 w))
  | 1#2 => some (double (fRd w) (fRs1 w) (fRs2 w) (fFunct5 w) (fFunct3 w))
  | _ => none

/-- OP-FP with `fmt` = 00 (rule R358). -/
def decodeOpFpS (xl : Xlen) (w : BitVec 32) : Option Instr :=
  match fFunct5 w, fRs2 w, fFunct3 w with
  | 0b00000#5, _, _ => some (.faddS (fRd w) (fRs1 w) (fRs2 w) (fFunct3 w))
  | 0b00001#5, _, _ => some (.fsubS (fRd w) (fRs1 w) (fRs2 w) (fFunct3 w))
  | 0b00010#5, _, _ => some (.fmulS (fRd w) (fRs1 w) (fRs2 w) (fFunct3 w))
  | 0b00011#5, _, _ => some (.fdivS (fRd w) (fRs1 w) (fRs2 w) (fFunct3 w))
  | 0b01011#5, 0#5, _ => some (.fsqrtS (fRd w) (fRs1 w) (fFunct3 w))
  | 0b00100#5, _, 0#3 => some (.fsgnjS (fRd w) (fRs1 w) (fRs2 w))
  | 0b00100#5, _, 1#3 => some (.fsgnjnS (fRd w) (fRs1 w) (fRs2 w))
  | 0b00100#5, _, 2#3 => some (.fsgnjxS (fRd w) (fRs1 w) (fRs2 w))
  | 0b00101#5, _, 0#3 => some (.fminS (fRd w) (fRs1 w) (fRs2 w))
  | 0b00101#5, _, 1#3 => some (.fmaxS (fRd w) (fRs1 w) (fRs2 w))
  | 0b10100#5, _, 2#3 => some (.feqS (fRd w) (fRs1 w) (fRs2 w))
  | 0b10100#5, _, 1#3 => some (.fltS (fRd w) (fRs1 w) (fRs2 w))
  | 0b10100#5, _, 0#3 => some (.fleS (fRd w) (fRs1 w) (fRs2 w))
  | 0b11100#5, 0#5, 1#3 => some (.fclassS (fRd w) (fRs1 w))
  | 0b11000#5, 0#5, _ => some (.fcvtWS (fRd w) (fRs1 w) (fFunct3 w))
  | 0b11000#5, 1#5, _ => some (.fcvtWuS (fRd w) (fRs1 w) (fFunct3 w))
  | 0b11000#5, 2#5, _ => only64 xl (.fcvtLS (fRd w) (fRs1 w) (fFunct3 w))
  | 0b11000#5, 3#5, _ => only64 xl (.fcvtLuS (fRd w) (fRs1 w) (fFunct3 w))
  | 0b11010#5, 0#5, _ => some (.fcvtSW (fRd w) (fRs1 w) (fFunct3 w))
  | 0b11010#5, 1#5, _ => some (.fcvtSWu (fRd w) (fRs1 w) (fFunct3 w))
  | 0b11010#5, 2#5, _ => only64 xl (.fcvtSL (fRd w) (fRs1 w) (fFunct3 w))
  | 0b11010#5, 3#5, _ => only64 xl (.fcvtSLu (fRd w) (fRs1 w) (fFunct3 w))
  | 0b11100#5, 0#5, 0#3 => some (.fmvXW (fRd w) (fRs1 w))
  | 0b11110#5, 0#5, 0#3 => some (.fmvWX (fRd w) (fRs1 w))
  | 0b01000#5, 1#5, _ => some (.fcvtSD (fRd w) (fRs1 w) (fFunct3 w))
  | _, _, _ => none

/-- OP-FP with `fmt` = 01 (rule R358). -/
def decodeOpFpD (xl : Xlen) (w : BitVec 32) : Option Instr :=
  match fFunct5 w, fRs2 w, fFunct3 w with
  | 0b00000#5, _, _ => some (.faddD (fRd w) (fRs1 w) (fRs2 w) (fFunct3 w))
  | 0b00001#5, _, _ => some (.fsubD (fRd w) (fRs1 w) (fRs2 w) (fFunct3 w))
  | 0b00010#5, _, _ => some (.fmulD (fRd w) (fRs1 w) (fRs2 w) (fFunct3 w))
  | 0b00011#5, _, _ => some (.fdivD (fRd w) (fRs1 w) (fRs2 w) (fFunct3 w))
  | 0b01011#5, 0#5, _ => some (.fsqrtD (fRd w) (fRs1 w) (fFunct3 w))
  | 0b00100#5, _, 0#3 => some (.fsgnjD (fRd w) (fRs1 w) (fRs2 w))
  | 0b00100#5, _, 1#3 => some (.fsgnjnD (fRd w) (fRs1 w) (fRs2 w))
  | 0b00100#5, _, 2#3 => some (.fsgnjxD (fRd w) (fRs1 w) (fRs2 w))
  | 0b00101#5, _, 0#3 => some (.fminD (fRd w) (fRs1 w) (fRs2 w))
  | 0b00101#5, _, 1#3 => some (.fmaxD (fRd w) (fRs1 w) (fRs2 w))
  | 0b10100#5, _, 2#3 => some (.feqD (fRd w) (fRs1 w) (fRs2 w))
  | 0b10100#5, _, 1#3 => some (.fltD (fRd w) (fRs1 w) (fRs2 w))
  | 0b10100#5, _, 0#3 => some (.fleD (fRd w) (fRs1 w) (fRs2 w))
  | 0b11100#5, 0#5, 1#3 => some (.fclassD (fRd w) (fRs1 w))
  | 0b01000#5, 0#5, _ => some (.fcvtDS (fRd w) (fRs1 w) (fFunct3 w))
  | 0b11000#5, 0#5, _ => some (.fcvtWD (fRd w) (fRs1 w) (fFunct3 w))
  | 0b11000#5, 1#5, _ => some (.fcvtWuD (fRd w) (fRs1 w) (fFunct3 w))
  | 0b11000#5, 2#5, _ => only64 xl (.fcvtLD (fRd w) (fRs1 w) (fFunct3 w))
  | 0b11000#5, 3#5, _ => only64 xl (.fcvtLuD (fRd w) (fRs1 w) (fFunct3 w))
  | 0b11010#5, 0#5, _ => some (.fcvtDW (fRd w) (fRs1 w) (fFunct3 w))
  | 0b11010#5, 1#5, _ => some (.fcvtDWu (fRd w) (fRs1 w) (fFunct3 w))
  | 0b11010#5, 2#5, _ => only64 xl (.fcvtDL (fRd w) (fRs1 w) (fFunct3 w))
  | 0b11010#5, 3#5, _ => only64 xl (.fcvtDLu (fRd w) (fRs1 w) (fFunct3 w))
  | 0b11100#5, 0#5, 0#3 => only64 xl (.fmvXD (fRd w) (fRs1 w))
  | 0b11110#5, 0#5, 0#3 => only64 xl (.fmvDX (fRd w) (fRs1 w))
  | _, _, _ => none

/-- OP-FP (rule R358). -/
def decodeOpFp (xl : Xlen) (w : BitVec 32) : Option Instr :=
  match fFmt w with
  | 0#2 => decodeOpFpS xl w
  | 1#2 => decodeOpFpD xl w
  | _ => none

/-- The 32-bit decoder, by major opcode (rule R350). -/
def decode32 (xl : Xlen) (w : BitVec 32) : Option Instr :=
  match fOpcode w with
  | 0x03#7 => decodeLoad xl w
  | 0x07#7 => decodeLoadFp w
  | 0x0F#7 => decodeMiscMem w
  | 0x13#7 => decodeOpImm xl w
  | 0x17#7 => some (.auipc (fRd w) (fImmU w))
  | 0x1B#7 => decodeOpImm32 xl w
  | 0x23#7 => decodeStore xl w
  | 0x27#7 => decodeStoreFp w
  | 0x2F#7 => decodeAmo xl w
  | 0x33#7 => decodeOp w
  | 0x37#7 => some (.lui (fRd w) (fImmU w))
  | 0x3B#7 => decodeOp32 xl w
  | 0x43#7 => decodeFma w .fmaddS .fmaddD
  | 0x47#7 => decodeFma w .fmsubS .fmsubD
  | 0x4B#7 => decodeFma w .fnmsubS .fnmsubD
  | 0x4F#7 => decodeFma w .fnmaddS .fnmaddD
  | 0x53#7 => decodeOpFp xl w
  | 0x63#7 => decodeBranch w
  | 0x67#7 => if fFunct3 w = 0#3 then some (.jalr (fRd w) (fRs1 w) (fImmI w)) else none
  | 0x6F#7 => some (.jal (fRd w) (fImmJ w))
  | 0x73#7 => decodeSystem w
  | _ => none

/-! ### Fields of a 16-bit parcel (rules R380 to R382) -/

/-- `c[1:0]`, the quadrant. -/
def cQuadrant (c : BitVec 16) : BitVec 2 := c.extractLsb' 0 2
/-- `c[15:13]`. -/
def cFunct3 (c : BitVec 16) : BitVec 3 := c.extractLsb' 13 3
/-- `c[11:7]`, `rd` or `rs1`. -/
def cRd (c : BitVec 16) : BitVec 5 := c.extractLsb' 7 5
/-- `c[6:2]`, `rs2`. -/
def cRs2 (c : BitVec 16) : BitVec 5 := c.extractLsb' 2 5
/-- `c[4:2]`, a three-bit register field. -/
def cLow3 (c : BitVec 16) : BitVec 3 := c.extractLsb' 2 3
/-- `c[9:7]`, a three-bit register field. -/
def cHigh3 (c : BitVec 16) : BitVec 3 := c.extractLsb' 7 3
/-- `{c[12], c[6:2]}`. -/
def cImm6 (c : BitVec 16) : BitVec 6 := c.extractLsb' 12 1 ++ c.extractLsb' 2 5
/-- Bits 9:2 of C.ADDI4SPN's immediate. -/
def cImm4spn (c : BitVec 16) : BitVec 8 :=
  c.extractLsb' 7 4 ++ c.extractLsb' 11 2 ++ c.extractLsb' 5 1 ++ c.extractLsb' 6 1
/-- Bits 6:2 of the offset of C.LW, C.SW, C.FLW, C.FSW. -/
def cImmLw (c : BitVec 16) : BitVec 5 := c.extractLsb' 5 1 ++ c.extractLsb' 10 3 ++ c.extractLsb' 6 1
/-- Bits 7:3 of the offset of C.LD, C.SD, C.FLD, C.FSD. -/
def cImmLd (c : BitVec 16) : BitVec 5 := c.extractLsb' 5 2 ++ c.extractLsb' 10 3
/-- Bits 9:4 of C.ADDI16SP's immediate. -/
def cImm16sp (c : BitVec 16) : BitVec 6 :=
  c.extractLsb' 12 1 ++ c.extractLsb' 3 2 ++ c.extractLsb' 5 1 ++ c.extractLsb' 2 1 ++ c.extractLsb' 6 1
/-- Bits 11:1 of the offset of C.J and C.JAL. -/
def cImmJ (c : BitVec 16) : BitVec 11 :=
  c.extractLsb' 12 1 ++ c.extractLsb' 8 1 ++ c.extractLsb' 9 2 ++ c.extractLsb' 6 1 ++ c.extractLsb' 7 1
    ++ c.extractLsb' 2 1 ++ c.extractLsb' 11 1 ++ c.extractLsb' 3 3
/-- Bits 8:1 of the offset of C.BEQZ and C.BNEZ. -/
def cImmB (c : BitVec 16) : BitVec 8 :=
  c.extractLsb' 12 1 ++ c.extractLsb' 5 2 ++ c.extractLsb' 2 1 ++ c.extractLsb' 10 2 ++ c.extractLsb' 3 2
/-- Bits 7:2 of the offset of C.LWSP and C.FLWSP. -/
def cImmLwsp (c : BitVec 16) : BitVec 6 := c.extractLsb' 2 2 ++ c.extractLsb' 12 1 ++ c.extractLsb' 4 3
/-- Bits 8:3 of the offset of C.LDSP and C.FLDSP. -/
def cImmLdsp (c : BitVec 16) : BitVec 6 := c.extractLsb' 2 3 ++ c.extractLsb' 12 1 ++ c.extractLsb' 5 2
/-- Bits 7:2 of the offset of C.SWSP and C.FSWSP. -/
def cImmSwsp (c : BitVec 16) : BitVec 6 := c.extractLsb' 7 2 ++ c.extractLsb' 9 4
/-- Bits 8:3 of the offset of C.SDSP and C.FSDSP. -/
def cImmSdsp (c : BitVec 16) : BitVec 6 := c.extractLsb' 7 3 ++ c.extractLsb' 10 3

/-! ### The 16-bit decoder (rules R383 to R385) -/

/-- Quadrant 00 (rule R383). -/
def decodeC0 (xl : Xlen) (c : BitVec 16) : Instr :=
  match cFunct3 c with
  | 0#3 => if cImm4spn c = 0#8 then .cIllegal c else .cAddi4spn (cLow3 c) (cImm4spn c)
  | 1#3 => .cFld (cLow3 c) (cHigh3 c) (cImmLd c)
  | 2#3 => .cLw (cLow3 c) (cHigh3 c) (cImmLw c)
  | 3#3 =>
    match xl with
    | .rv32 => .cFlw (cLow3 c) (cHigh3 c) (cImmLw c)
    | .rv64 => .cLd (cLow3 c) (cHigh3 c) (cImmLd c)
  | 4#3 => .cIllegal c
  | 5#3 => .cFsd (cHigh3 c) (cLow3 c) (cImmLd c)
  | 6#3 => .cSw (cHigh3 c) (cLow3 c) (cImmLw c)
  | _ =>
    match xl with
    | .rv32 => .cFsw (cHigh3 c) (cLow3 c) (cImmLw c)
    | .rv64 => .cSd (cHigh3 c) (cLow3 c) (cImmLd c)

/-- The two-register arithmetic of quadrant 01, funct3 100, `c[11:10]` = 11 (rule R383). -/
def decodeCA (xl : Xlen) (c : BitVec 16) : Instr :=
  match c.extractLsb' 12 1, c.extractLsb' 5 2 with
  | 0#1, 0#2 => .cSub (cHigh3 c) (cLow3 c)
  | 0#1, 1#2 => .cXor (cHigh3 c) (cLow3 c)
  | 0#1, 2#2 => .cOr (cHigh3 c) (cLow3 c)
  | 0#1, _ => .cAnd (cHigh3 c) (cLow3 c)
  | _, 0#2 => if xl = .rv64 then .cSubw (cHigh3 c) (cLow3 c) else .cIllegal c
  | _, 1#2 => if xl = .rv64 then .cAddw (cHigh3 c) (cLow3 c) else .cIllegal c
  | _, _ => .cIllegal c

/-- Quadrant 01, funct3 100 (rule R383). -/
def decodeCArith (xl : Xlen) (c : BitVec 16) : Instr :=
  match c.extractLsb' 10 2 with
  | 0#2 => if shamtOk xl (cImm6 c) then .cSrli (cHigh3 c) (cImm6 c) else .cIllegal c
  | 1#2 => if shamtOk xl (cImm6 c) then .cSrai (cHigh3 c) (cImm6 c) else .cIllegal c
  | 2#2 => .cAndi (cHigh3 c) (cImm6 c)
  | _ => decodeCA xl c

/-- Quadrant 01 (rule R383). -/
def decodeC1 (xl : Xlen) (c : BitVec 16) : Instr :=
  match cFunct3 c with
  | 0#3 => if cRd c = 0#5 then .cNop (cImm6 c) else .cAddi (cRd c) (cImm6 c)
  | 1#3 =>
    match xl with
    | .rv32 => .cJal (cImmJ c)
    | .rv64 => if cRd c = 0#5 then .cIllegal c else .cAddiw (cRd c) (cImm6 c)
  | 2#3 => .cLi (cRd c) (cImm6 c)
  | 3#3 =>
    if cImm6 c = 0#6 then .cIllegal c
    else if cRd c = 2#5 then .cAddi16sp (cImm16sp c) else .cLui (cRd c) (cImm6 c)
  | 4#3 => decodeCArith xl c
  | 5#3 => .cJ (cImmJ c)
  | 6#3 => .cBeqz (cHigh3 c) (cImmB c)
  | _ => .cBnez (cHigh3 c) (cImmB c)

/-- Quadrant 10, funct3 100 (rule R383). -/
def decodeCR (c : BitVec 16) : Instr :=
  match c.extractLsb' 12 1 with
  | 0#1 =>
    if cRs2 c = 0#5 then if cRd c = 0#5 then .cIllegal c else .cJr (cRd c)
    else .cMv (cRd c) (cRs2 c)
  | _ =>
    if cRs2 c = 0#5 then if cRd c = 0#5 then .cEbreak else .cJalr (cRd c)
    else .cAdd (cRd c) (cRs2 c)

/-- Quadrant 10 (rule R383). -/
def decodeC2 (xl : Xlen) (c : BitVec 16) : Instr :=
  match cFunct3 c with
  | 0#3 => if shamtOk xl (cImm6 c) then .cSlli (cRd c) (cImm6 c) else .cIllegal c
  | 1#3 => .cFldsp (cRd c) (cImmLdsp c)
  | 2#3 => if cRd c = 0#5 then .cIllegal c else .cLwsp (cRd c) (cImmLwsp c)
  | 3#3 =>
    match xl with
    | .rv32 => .cFlwsp (cRd c) (cImmLwsp c)
    | .rv64 => if cRd c = 0#5 then .cIllegal c else .cLdsp (cRd c) (cImmLdsp c)
  | 4#3 => decodeCR c
  | 5#3 => .cFsdsp (cRs2 c) (cImmSdsp c)
  | 6#3 => .cSwsp (cRs2 c) (cImmSwsp c)
  | _ =>
    match xl with
    | .rv32 => .cFswsp (cRs2 c) (cImmSwsp c)
    | .rv64 => .cSdsp (cRs2 c) (cImmSdsp c)

/-- The 16-bit decoder; quadrant 11 is the 32-bit space (rule R383). -/
def decode16 (xl : Xlen) (c : BitVec 16) : Option Instr :=
  match cQuadrant c with
  | 0#2 => some (decodeC0 xl c)
  | 1#2 => some (decodeC1 xl c)
  | 2#2 => some (decodeC2 xl c)
  | _ => none

/-! ### Decoding a fetched word and decoding bytes -/

/-- The length of the instruction whose first parcel is in `w[15:0]` (rule R330). -/
def wordLen (w : BitVec 32) : Nat := if w.extractLsb' 0 2 = 0b11#2 then 4 else 2

/-- Decoder selection by the two lowest bits (40_step.md rule R424). -/
def decodeWord (xl : Xlen) (w : BitVec 32) : Except DecodeError Instr :=
  if w.extractLsb' 0 2 = 0b11#2 then
    match decode32 xl w with
    | some i => .ok i
    | none => .error (.noPattern32 w)
  else
    match decode16 xl (w.setWidth 16) with
    | some i => .ok i
    | none => .error (.noPattern16 (w.setWidth 16))

/-- Decoding from a list of bytes, the first at the lowest address, little-endian (20_memory.md rule R211): the
instruction and the bytes after it. -/
def decode (xl : Xlen) : List Byte → Except DecodeError (Instr × List Byte)
  | b0 :: b1 :: rest =>
    if b0.extractLsb' 0 2 = 0b11#2 then
      match rest with
      | b2 :: b3 :: rest' => (decodeWord xl (b3 ++ b2 ++ b1 ++ b0)).map (·, rest')
      | _ => .error .truncated
    else (decodeWord xl (0#16 ++ b1 ++ b0)).map (·, rest)
  | _ => .error .truncated

/-! ### The encoder (formats of rules R333 and R380) -/

/-- R, FP-R and the `*W` shift immediates: the second source field may hold a shift amount. -/
def encR (funct7 : BitVec 7) (rs2 rs1 : BitVec 5) (funct3 : BitVec 3) (rd : BitVec 5) (op : BitVec 7) : BitVec 32 :=
  funct7 ++ rs2 ++ rs1 ++ funct3 ++ rd ++ op
/-- I and CSR. -/
def encI (imm : BitVec 12) (rs1 : BitVec 5) (funct3 : BitVec 3) (rd : BitVec 5) (op : BitVec 7) : BitVec 32 :=
  imm ++ rs1 ++ funct3 ++ rd ++ op
/-- S. -/
def encS (imm : BitVec 12) (rs2 rs1 : BitVec 5) (funct3 : BitVec 3) (op : BitVec 7) : BitVec 32 :=
  imm.extractLsb' 5 7 ++ rs2 ++ rs1 ++ funct3 ++ imm.extractLsb' 0 5 ++ op
/-- B: bit `k` of `imm` is bit `k + 1` of the offset. -/
def encB (imm : BitVec 12) (rs2 rs1 : BitVec 5) (funct3 : BitVec 3) (op : BitVec 7) : BitVec 32 :=
  imm.extractLsb' 11 1 ++ imm.extractLsb' 4 6 ++ rs2 ++ rs1 ++ funct3 ++ imm.extractLsb' 0 4
    ++ imm.extractLsb' 10 1 ++ op
/-- U. -/
def encU (imm : BitVec 20) (rd : BitVec 5) (op : BitVec 7) : BitVec 32 := imm ++ rd ++ op
/-- J: bit `k` of `imm` is bit `k + 1` of the offset. -/
def encJ (imm : BitVec 20) (rd : BitVec 5) (op : BitVec 7) : BitVec 32 :=
  imm.extractLsb' 19 1 ++ imm.extractLsb' 0 10 ++ imm.extractLsb' 10 1 ++ imm.extractLsb' 11 8 ++ rd ++ op
/-- SH. -/
def encSh (funct6 shamt : BitVec 6) (rs1 : BitVec 5) (funct3 : BitVec 3) (rd : BitVec 5) (op : BitVec 7) : BitVec 32 :=
  funct6 ++ shamt ++ rs1 ++ funct3 ++ rd ++ op
/-- AMO. -/
def encAmo (funct5 : BitVec 5) (aq rl : BitVec 1) (rs2 rs1 : BitVec 5) (funct3 : BitVec 3) (rd : BitVec 5)
    (op : BitVec 7) : BitVec 32 :=
  funct5 ++ aq ++ rl ++ rs2 ++ rs1 ++ funct3 ++ rd ++ op
/-- R4. -/
def encR4 (rs3 : BitVec 5) (fmt : BitVec 2) (rs2 rs1 : BitVec 5) (rm : BitVec 3) (rd : BitVec 5) (op : BitVec 7) :
    BitVec 32 :=
  rs3 ++ fmt ++ rs2 ++ rs1 ++ rm ++ rd ++ op
/-- CI. -/
def encCI (funct3 : BitVec 3) (imm : BitVec 6) (rd : BitVec 5) (q : BitVec 2) : BitVec 16 :=
  funct3 ++ imm.extractLsb' 5 1 ++ rd ++ imm.extractLsb' 0 5 ++ q
/-- CIW: bit `k` of `imm` is bit `k + 2` of the immediate. -/
def encCIW (funct3 : BitVec 3) (imm : BitVec 8) (rd : BitVec 3) (q : BitVec 2) : BitVec 16 :=
  funct3 ++ imm.extractLsb' 2 2 ++ imm.extractLsb' 4 4 ++ imm.extractLsb' 0 1 ++ imm.extractLsb' 1 1 ++ rd ++ q
/-- CL and CS with a word offset. -/
def encCLW (funct3 : BitVec 3) (imm : BitVec 5) (rs1 low : BitVec 3) (q : BitVec 2) : BitVec 16 :=
  funct3 ++ imm.extractLsb' 1 3 ++ rs1 ++ imm.extractLsb' 0 1 ++ imm.extractLsb' 4 1 ++ low ++ q
/-- CL and CS with a doubleword offset. -/
def encCLD (funct3 : BitVec 3) (imm : BitVec 5) (rs1 low : BitVec 3) (q : BitVec 2) : BitVec 16 :=
  funct3 ++ imm.extractLsb' 0 3 ++ rs1 ++ imm.extractLsb' 3 2 ++ low ++ q
/-- CJ: bit `k` of `imm` is bit `k + 1` of the offset. -/
def encCJ (funct3 : BitVec 3) (imm : BitVec 11) (q : BitVec 2) : BitVec 16 :=
  funct3 ++ imm.extractLsb' 10 1 ++ imm.extractLsb' 3 1 ++ imm.extractLsb' 7 2 ++ imm.extractLsb' 9 1
    ++ imm.extractLsb' 5 1 ++ imm.extractLsb' 6 1 ++ imm.extractLsb' 0 3 ++ imm.extractLsb' 4 1 ++ q
/-- C.ADDI16SP: bit `k` of `imm` is bit `k + 4` of the immediate, `rd` is 2. -/
def encC16SP (funct3 : BitVec 3) (imm : BitVec 6) (q : BitVec 2) : BitVec 16 :=
  funct3 ++ imm.extractLsb' 5 1 ++ 2#5 ++ imm.extractLsb' 0 1 ++ imm.extractLsb' 2 1 ++ imm.extractLsb' 3 2
    ++ imm.extractLsb' 1 1 ++ q
/-- C.SRLI, C.SRAI, C.ANDI. -/
def encCB (funct3 : BitVec 3) (funct2 : BitVec 2) (imm : BitVec 6) (rd : BitVec 3) (q : BitVec 2) : BitVec 16 :=
  funct3 ++ imm.extractLsb' 5 1 ++ funct2 ++ rd ++ imm.extractLsb' 0 5 ++ q
/-- CA. -/
def encCA (funct6 : BitVec 6) (rd : BitVec 3) (funct2 : BitVec 2) (rs2 : BitVec 3) (q : BitVec 2) : BitVec 16 :=
  funct6 ++ rd ++ funct2 ++ rs2 ++ q
/-- C.BEQZ and C.BNEZ: bit `k` of `imm` is bit `k + 1` of the offset. -/
def encCBr (funct3 : BitVec 3) (imm : BitVec 8) (rs1 : BitVec 3) (q : BitVec 2) : BitVec 16 :=
  funct3 ++ imm.extractLsb' 7 1 ++ imm.extractLsb' 2 2 ++ rs1 ++ imm.extractLsb' 5 2 ++ imm.extractLsb' 0 2
    ++ imm.extractLsb' 4 1 ++ q
/-- C.LDSP and C.FLDSP. -/
def encCLDSP (funct3 : BitVec 3) (imm : BitVec 6) (rd : BitVec 5) (q : BitVec 2) : BitVec 16 :=
  funct3 ++ imm.extractLsb' 2 1 ++ rd ++ imm.extractLsb' 0 2 ++ imm.extractLsb' 3 3 ++ q
/-- C.LWSP and C.FLWSP. -/
def encCLWSP (funct3 : BitVec 3) (imm : BitVec 6) (rd : BitVec 5) (q : BitVec 2) : BitVec 16 :=
  funct3 ++ imm.extractLsb' 3 1 ++ rd ++ imm.extractLsb' 0 3 ++ imm.extractLsb' 4 2 ++ q
/-- C.SDSP and C.FSDSP. -/
def encCSDSP (funct3 : BitVec 3) (imm : BitVec 6) (rs2 : BitVec 5) (q : BitVec 2) : BitVec 16 :=
  funct3 ++ imm.extractLsb' 0 3 ++ imm.extractLsb' 3 3 ++ rs2 ++ q
/-- C.SWSP and C.FSWSP. -/
def encCSWSP (funct3 : BitVec 3) (imm : BitVec 6) (rs2 : BitVec 5) (q : BitVec 2) : BitVec 16 :=
  funct3 ++ imm.extractLsb' 0 4 ++ imm.extractLsb' 4 2 ++ rs2 ++ q
/-- CR. -/
def encCR (funct4 : BitVec 4) (rd rs2 : BitVec 5) (q : BitVec 2) : BitVec 16 := funct4 ++ rd ++ rs2 ++ q

/-- The encoding of an instruction: one 16-bit parcel or one 32-bit word (rule R330). -/
inductive Encoded where
  | parcel (c : BitVec 16)
  | word (w : BitVec 32)
deriving DecidableEq, Repr

/-- The words of an instruction (spec/opcode_table.json, rules R333 and R380). -/
def encode : Instr → Encoded
  | .lui rd imm => .word (encU imm rd 0x37#7)
  | .auipc rd imm => .word (encU imm rd 0x17#7)
  | .jal rd imm => .word (encJ imm rd 0x6F#7)
  | .jalr rd rs1 imm => .word (encI imm rs1 0#3 rd 0x67#7)
  | .beq rs1 rs2 imm => .word (encB imm rs2 rs1 0#3 0x63#7)
  | .bne rs1 rs2 imm => .word (encB imm rs2 rs1 1#3 0x63#7)
  | .blt rs1 rs2 imm => .word (encB imm rs2 rs1 4#3 0x63#7)
  | .bge rs1 rs2 imm => .word (encB imm rs2 rs1 5#3 0x63#7)
  | .bltu rs1 rs2 imm => .word (encB imm rs2 rs1 6#3 0x63#7)
  | .bgeu rs1 rs2 imm => .word (encB imm rs2 rs1 7#3 0x63#7)
  | .lb rd rs1 imm => .word (encI imm rs1 0#3 rd 0x03#7)
  | .lh rd rs1 imm => .word (encI imm rs1 1#3 rd 0x03#7)
  | .lw rd rs1 imm => .word (encI imm rs1 2#3 rd 0x03#7)
  | .lbu rd rs1 imm => .word (encI imm rs1 4#3 rd 0x03#7)
  | .lhu rd rs1 imm => .word (encI imm rs1 5#3 rd 0x03#7)
  | .lwu rd rs1 imm => .word (encI imm rs1 6#3 rd 0x03#7)
  | .ld rd rs1 imm => .word (encI imm rs1 3#3 rd 0x03#7)
  | .sb rs1 rs2 imm => .word (encS imm rs2 rs1 0#3 0x23#7)
  | .sh rs1 rs2 imm => .word (encS imm rs2 rs1 1#3 0x23#7)
  | .sw rs1 rs2 imm => .word (encS imm rs2 rs1 2#3 0x23#7)
  | .sd rs1 rs2 imm => .word (encS imm rs2 rs1 3#3 0x23#7)
  | .addi rd rs1 imm => .word (encI imm rs1 0#3 rd 0x13#7)
  | .slti rd rs1 imm => .word (encI imm rs1 2#3 rd 0x13#7)
  | .sltiu rd rs1 imm => .word (encI imm rs1 3#3 rd 0x13#7)
  | .xori rd rs1 imm => .word (encI imm rs1 4#3 rd 0x13#7)
  | .ori rd rs1 imm => .word (encI imm rs1 6#3 rd 0x13#7)
  | .andi rd rs1 imm => .word (encI imm rs1 7#3 rd 0x13#7)
  | .slli rd rs1 shamt => .word (encSh 0b000000#6 shamt rs1 1#3 rd 0x13#7)
  | .srli rd rs1 shamt => .word (encSh 0b000000#6 shamt rs1 5#3 rd 0x13#7)
  | .srai rd rs1 shamt => .word (encSh 0b010000#6 shamt rs1 5#3 rd 0x13#7)
  | .add rd rs1 rs2 => .word (encR 0b0000000#7 rs2 rs1 0#3 rd 0x33#7)
  | .sub rd rs1 rs2 => .word (encR 0b0100000#7 rs2 rs1 0#3 rd 0x33#7)
  | .sll rd rs1 rs2 => .word (encR 0b0000000#7 rs2 rs1 1#3 rd 0x33#7)
  | .slt rd rs1 rs2 => .word (encR 0b0000000#7 rs2 rs1 2#3 rd 0x33#7)
  | .sltu rd rs1 rs2 => .word (encR 0b0000000#7 rs2 rs1 3#3 rd 0x33#7)
  | .xor rd rs1 rs2 => .word (encR 0b0000000#7 rs2 rs1 4#3 rd 0x33#7)
  | .srl rd rs1 rs2 => .word (encR 0b0000000#7 rs2 rs1 5#3 rd 0x33#7)
  | .sra rd rs1 rs2 => .word (encR 0b0100000#7 rs2 rs1 5#3 rd 0x33#7)
  | .or rd rs1 rs2 => .word (encR 0b0000000#7 rs2 rs1 6#3 rd 0x33#7)
  | .and rd rs1 rs2 => .word (encR 0b0000000#7 rs2 rs1 7#3 rd 0x33#7)
  | .addiw rd rs1 imm => .word (encI imm rs1 0#3 rd 0x1B#7)
  | .slliw rd rs1 shamt => .word (encR 0b0000000#7 shamt rs1 1#3 rd 0x1B#7)
  | .srliw rd rs1 shamt => .word (encR 0b0000000#7 shamt rs1 5#3 rd 0x1B#7)
  | .sraiw rd rs1 shamt => .word (encR 0b0100000#7 shamt rs1 5#3 rd 0x1B#7)
  | .addw rd rs1 rs2 => .word (encR 0b0000000#7 rs2 rs1 0#3 rd 0x3B#7)
  | .subw rd rs1 rs2 => .word (encR 0b0100000#7 rs2 rs1 0#3 rd 0x3B#7)
  | .sllw rd rs1 rs2 => .word (encR 0b0000000#7 rs2 rs1 1#3 rd 0x3B#7)
  | .srlw rd rs1 rs2 => .word (encR 0b0000000#7 rs2 rs1 5#3 rd 0x3B#7)
  | .sraw rd rs1 rs2 => .word (encR 0b0100000#7 rs2 rs1 5#3 rd 0x3B#7)
  | .mul rd rs1 rs2 => .word (encR 0b0000001#7 rs2 rs1 0#3 rd 0x33#7)
  | .mulh rd rs1 rs2 => .word (encR 0b0000001#7 rs2 rs1 1#3 rd 0x33#7)
  | .mulhsu rd rs1 rs2 => .word (encR 0b0000001#7 rs2 rs1 2#3 rd 0x33#7)
  | .mulhu rd rs1 rs2 => .word (encR 0b0000001#7 rs2 rs1 3#3 rd 0x33#7)
  | .div rd rs1 rs2 => .word (encR 0b0000001#7 rs2 rs1 4#3 rd 0x33#7)
  | .divu rd rs1 rs2 => .word (encR 0b0000001#7 rs2 rs1 5#3 rd 0x33#7)
  | .rem rd rs1 rs2 => .word (encR 0b0000001#7 rs2 rs1 6#3 rd 0x33#7)
  | .remu rd rs1 rs2 => .word (encR 0b0000001#7 rs2 rs1 7#3 rd 0x33#7)
  | .mulw rd rs1 rs2 => .word (encR 0b0000001#7 rs2 rs1 0#3 rd 0x3B#7)
  | .divw rd rs1 rs2 => .word (encR 0b0000001#7 rs2 rs1 4#3 rd 0x3B#7)
  | .divuw rd rs1 rs2 => .word (encR 0b0000001#7 rs2 rs1 5#3 rd 0x3B#7)
  | .remw rd rs1 rs2 => .word (encR 0b0000001#7 rs2 rs1 6#3 rd 0x3B#7)
  | .remuw rd rs1 rs2 => .word (encR 0b0000001#7 rs2 rs1 7#3 rd 0x3B#7)
  | .fence fm pred succ rs1 rd => .word (encI (fm ++ pred ++ succ) rs1 0#3 rd 0x0F#7)
  | .fenceI imm rs1 rd => .word (encI imm rs1 1#3 rd 0x0F#7)
  | .ecall => .word 0x00000073#32
  | .ebreak => .word 0x00100073#32
  | .sret => .word 0x10200073#32
  | .mret => .word 0x30200073#32
  | .wfi => .word 0x10500073#32
  | .sfenceVma rs1 rs2 => .word (encR 0b0001001#7 rs2 rs1 0#3 0#5 0x73#7)
  | .csrrw rd rs1 csr => .word (encI csr rs1 1#3 rd 0x73#7)
  | .csrrs rd rs1 csr => .word (encI csr rs1 2#3 rd 0x73#7)
  | .csrrc rd rs1 csr => .word (encI csr rs1 3#3 rd 0x73#7)
  | .csrrwi rd uimm csr => .word (encI csr uimm 5#3 rd 0x73#7)
  | .csrrsi rd uimm csr => .word (encI csr uimm 6#3 rd 0x73#7)
  | .csrrci rd uimm csr => .word (encI csr uimm 7#3 rd 0x73#7)
  | .lrW rd rs1 aq rl => .word (encAmo 0b00010#5 aq rl 0#5 rs1 2#3 rd 0x2F#7)
  | .lrD rd rs1 aq rl => .word (encAmo 0b00010#5 aq rl 0#5 rs1 3#3 rd 0x2F#7)
  | .scW rd rs1 rs2 aq rl => .word (encAmo 0b00011#5 aq rl rs2 rs1 2#3 rd 0x2F#7)
  | .scD rd rs1 rs2 aq rl => .word (encAmo 0b00011#5 aq rl rs2 rs1 3#3 rd 0x2F#7)
  | .amoswapW rd rs1 rs2 aq rl => .word (encAmo 0b00001#5 aq rl rs2 rs1 2#3 rd 0x2F#7)
  | .amoaddW rd rs1 rs2 aq rl => .word (encAmo 0b00000#5 aq rl rs2 rs1 2#3 rd 0x2F#7)
  | .amoxorW rd rs1 rs2 aq rl => .word (encAmo 0b00100#5 aq rl rs2 rs1 2#3 rd 0x2F#7)
  | .amoandW rd rs1 rs2 aq rl => .word (encAmo 0b01100#5 aq rl rs2 rs1 2#3 rd 0x2F#7)
  | .amoorW rd rs1 rs2 aq rl => .word (encAmo 0b01000#5 aq rl rs2 rs1 2#3 rd 0x2F#7)
  | .amominW rd rs1 rs2 aq rl => .word (encAmo 0b10000#5 aq rl rs2 rs1 2#3 rd 0x2F#7)
  | .amomaxW rd rs1 rs2 aq rl => .word (encAmo 0b10100#5 aq rl rs2 rs1 2#3 rd 0x2F#7)
  | .amominuW rd rs1 rs2 aq rl => .word (encAmo 0b11000#5 aq rl rs2 rs1 2#3 rd 0x2F#7)
  | .amomaxuW rd rs1 rs2 aq rl => .word (encAmo 0b11100#5 aq rl rs2 rs1 2#3 rd 0x2F#7)
  | .amoswapD rd rs1 rs2 aq rl => .word (encAmo 0b00001#5 aq rl rs2 rs1 3#3 rd 0x2F#7)
  | .amoaddD rd rs1 rs2 aq rl => .word (encAmo 0b00000#5 aq rl rs2 rs1 3#3 rd 0x2F#7)
  | .amoxorD rd rs1 rs2 aq rl => .word (encAmo 0b00100#5 aq rl rs2 rs1 3#3 rd 0x2F#7)
  | .amoandD rd rs1 rs2 aq rl => .word (encAmo 0b01100#5 aq rl rs2 rs1 3#3 rd 0x2F#7)
  | .amoorD rd rs1 rs2 aq rl => .word (encAmo 0b01000#5 aq rl rs2 rs1 3#3 rd 0x2F#7)
  | .amominD rd rs1 rs2 aq rl => .word (encAmo 0b10000#5 aq rl rs2 rs1 3#3 rd 0x2F#7)
  | .amomaxD rd rs1 rs2 aq rl => .word (encAmo 0b10100#5 aq rl rs2 rs1 3#3 rd 0x2F#7)
  | .amominuD rd rs1 rs2 aq rl => .word (encAmo 0b11000#5 aq rl rs2 rs1 3#3 rd 0x2F#7)
  | .amomaxuD rd rs1 rs2 aq rl => .word (encAmo 0b11100#5 aq rl rs2 rs1 3#3 rd 0x2F#7)
  | .flw rd rs1 imm => .word (encI imm rs1 2#3 rd 0x07#7)
  | .fsw rs1 rs2 imm => .word (encS imm rs2 rs1 2#3 0x27#7)
  | .faddS rd rs1 rs2 rm => .word (encR 0b0000000#7 rs2 rs1 rm rd 0x53#7)
  | .fsubS rd rs1 rs2 rm => .word (encR 0b0000100#7 rs2 rs1 rm rd 0x53#7)
  | .fmulS rd rs1 rs2 rm => .word (encR 0b0001000#7 rs2 rs1 rm rd 0x53#7)
  | .fdivS rd rs1 rs2 rm => .word (encR 0b0001100#7 rs2 rs1 rm rd 0x53#7)
  | .fsqrtS rd rs1 rm => .word (encR 0b0101100#7 0#5 rs1 rm rd 0x53#7)
  | .fmaddS rd rs1 rs2 rs3 rm => .word (encR4 rs3 0#2 rs2 rs1 rm rd 0x43#7)
  | .fmsubS rd rs1 rs2 rs3 rm => .word (encR4 rs3 0#2 rs2 rs1 rm rd 0x47#7)
  | .fnmsubS rd rs1 rs2 rs3 rm => .word (encR4 rs3 0#2 rs2 rs1 rm rd 0x4B#7)
  | .fnmaddS rd rs1 rs2 rs3 rm => .word (encR4 rs3 0#2 rs2 rs1 rm rd 0x4F#7)
  | .fsgnjS rd rs1 rs2 => .word (encR 0b0010000#7 rs2 rs1 0#3 rd 0x53#7)
  | .fsgnjnS rd rs1 rs2 => .word (encR 0b0010000#7 rs2 rs1 1#3 rd 0x53#7)
  | .fsgnjxS rd rs1 rs2 => .word (encR 0b0010000#7 rs2 rs1 2#3 rd 0x53#7)
  | .fminS rd rs1 rs2 => .word (encR 0b0010100#7 rs2 rs1 0#3 rd 0x53#7)
  | .fmaxS rd rs1 rs2 => .word (encR 0b0010100#7 rs2 rs1 1#3 rd 0x53#7)
  | .feqS rd rs1 rs2 => .word (encR 0b1010000#7 rs2 rs1 2#3 rd 0x53#7)
  | .fltS rd rs1 rs2 => .word (encR 0b1010000#7 rs2 rs1 1#3 rd 0x53#7)
  | .fleS rd rs1 rs2 => .word (encR 0b1010000#7 rs2 rs1 0#3 rd 0x53#7)
  | .fclassS rd rs1 => .word (encR 0b1110000#7 0#5 rs1 1#3 rd 0x53#7)
  | .fcvtWS rd rs1 rm => .word (encR 0b1100000#7 0#5 rs1 rm rd 0x53#7)
  | .fcvtWuS rd rs1 rm => .word (encR 0b1100000#7 1#5 rs1 rm rd 0x53#7)
  | .fcvtLS rd rs1 rm => .word (encR 0b1100000#7 2#5 rs1 rm rd 0x53#7)
  | .fcvtLuS rd rs1 rm => .word (encR 0b1100000#7 3#5 rs1 rm rd 0x53#7)
  | .fcvtSW rd rs1 rm => .word (encR 0b1101000#7 0#5 rs1 rm rd 0x53#7)
  | .fcvtSWu rd rs1 rm => .word (encR 0b1101000#7 1#5 rs1 rm rd 0x53#7)
  | .fcvtSL rd rs1 rm => .word (encR 0b1101000#7 2#5 rs1 rm rd 0x53#7)
  | .fcvtSLu rd rs1 rm => .word (encR 0b1101000#7 3#5 rs1 rm rd 0x53#7)
  | .fmvXW rd rs1 => .word (encR 0b1110000#7 0#5 rs1 0#3 rd 0x53#7)
  | .fmvWX rd rs1 => .word (encR 0b1111000#7 0#5 rs1 0#3 rd 0x53#7)
  | .fld rd rs1 imm => .word (encI imm rs1 3#3 rd 0x07#7)
  | .fsd rs1 rs2 imm => .word (encS imm rs2 rs1 3#3 0x27#7)
  | .faddD rd rs1 rs2 rm => .word (encR 0b0000001#7 rs2 rs1 rm rd 0x53#7)
  | .fsubD rd rs1 rs2 rm => .word (encR 0b0000101#7 rs2 rs1 rm rd 0x53#7)
  | .fmulD rd rs1 rs2 rm => .word (encR 0b0001001#7 rs2 rs1 rm rd 0x53#7)
  | .fdivD rd rs1 rs2 rm => .word (encR 0b0001101#7 rs2 rs1 rm rd 0x53#7)
  | .fsqrtD rd rs1 rm => .word (encR 0b0101101#7 0#5 rs1 rm rd 0x53#7)
  | .fmaddD rd rs1 rs2 rs3 rm => .word (encR4 rs3 1#2 rs2 rs1 rm rd 0x43#7)
  | .fmsubD rd rs1 rs2 rs3 rm => .word (encR4 rs3 1#2 rs2 rs1 rm rd 0x47#7)
  | .fnmsubD rd rs1 rs2 rs3 rm => .word (encR4 rs3 1#2 rs2 rs1 rm rd 0x4B#7)
  | .fnmaddD rd rs1 rs2 rs3 rm => .word (encR4 rs3 1#2 rs2 rs1 rm rd 0x4F#7)
  | .fsgnjD rd rs1 rs2 => .word (encR 0b0010001#7 rs2 rs1 0#3 rd 0x53#7)
  | .fsgnjnD rd rs1 rs2 => .word (encR 0b0010001#7 rs2 rs1 1#3 rd 0x53#7)
  | .fsgnjxD rd rs1 rs2 => .word (encR 0b0010001#7 rs2 rs1 2#3 rd 0x53#7)
  | .fminD rd rs1 rs2 => .word (encR 0b0010101#7 rs2 rs1 0#3 rd 0x53#7)
  | .fmaxD rd rs1 rs2 => .word (encR 0b0010101#7 rs2 rs1 1#3 rd 0x53#7)
  | .feqD rd rs1 rs2 => .word (encR 0b1010001#7 rs2 rs1 2#3 rd 0x53#7)
  | .fltD rd rs1 rs2 => .word (encR 0b1010001#7 rs2 rs1 1#3 rd 0x53#7)
  | .fleD rd rs1 rs2 => .word (encR 0b1010001#7 rs2 rs1 0#3 rd 0x53#7)
  | .fclassD rd rs1 => .word (encR 0b1110001#7 0#5 rs1 1#3 rd 0x53#7)
  | .fcvtSD rd rs1 rm => .word (encR 0b0100000#7 1#5 rs1 rm rd 0x53#7)
  | .fcvtDS rd rs1 rm => .word (encR 0b0100001#7 0#5 rs1 rm rd 0x53#7)
  | .fcvtWD rd rs1 rm => .word (encR 0b1100001#7 0#5 rs1 rm rd 0x53#7)
  | .fcvtWuD rd rs1 rm => .word (encR 0b1100001#7 1#5 rs1 rm rd 0x53#7)
  | .fcvtLD rd rs1 rm => .word (encR 0b1100001#7 2#5 rs1 rm rd 0x53#7)
  | .fcvtLuD rd rs1 rm => .word (encR 0b1100001#7 3#5 rs1 rm rd 0x53#7)
  | .fcvtDW rd rs1 rm => .word (encR 0b1101001#7 0#5 rs1 rm rd 0x53#7)
  | .fcvtDWu rd rs1 rm => .word (encR 0b1101001#7 1#5 rs1 rm rd 0x53#7)
  | .fcvtDL rd rs1 rm => .word (encR 0b1101001#7 2#5 rs1 rm rd 0x53#7)
  | .fcvtDLu rd rs1 rm => .word (encR 0b1101001#7 3#5 rs1 rm rd 0x53#7)
  | .fmvXD rd rs1 => .word (encR 0b1110001#7 0#5 rs1 0#3 rd 0x53#7)
  | .fmvDX rd rs1 => .word (encR 0b1111001#7 0#5 rs1 0#3 rd 0x53#7)
  | .cIllegal w => .parcel w
  | .cAddi4spn rd imm => .parcel (encCIW 0#3 imm rd 0#2)
  | .cFld rd rs1 imm => .parcel (encCLD 1#3 imm rs1 rd 0#2)
  | .cLw rd rs1 imm => .parcel (encCLW 2#3 imm rs1 rd 0#2)
  | .cFlw rd rs1 imm => .parcel (encCLW 3#3 imm rs1 rd 0#2)
  | .cLd rd rs1 imm => .parcel (encCLD 3#3 imm rs1 rd 0#2)
  | .cFsd rs1 rs2 imm => .parcel (encCLD 5#3 imm rs1 rs2 0#2)
  | .cSw rs1 rs2 imm => .parcel (encCLW 6#3 imm rs1 rs2 0#2)
  | .cFsw rs1 rs2 imm => .parcel (encCLW 7#3 imm rs1 rs2 0#2)
  | .cSd rs1 rs2 imm => .parcel (encCLD 7#3 imm rs1 rs2 0#2)
  | .cNop imm => .parcel (encCI 0#3 imm 0#5 1#2)
  | .cAddi rd imm => .parcel (encCI 0#3 imm rd 1#2)
  | .cJal imm => .parcel (encCJ 1#3 imm 1#2)
  | .cAddiw rd imm => .parcel (encCI 1#3 imm rd 1#2)
  | .cLi rd imm => .parcel (encCI 2#3 imm rd 1#2)
  | .cAddi16sp imm => .parcel (encC16SP 3#3 imm 1#2)
  | .cLui rd imm => .parcel (encCI 3#3 imm rd 1#2)
  | .cSrli rd shamt => .parcel (encCB 4#3 0#2 shamt rd 1#2)
  | .cSrai rd shamt => .parcel (encCB 4#3 1#2 shamt rd 1#2)
  | .cAndi rd imm => .parcel (encCB 4#3 2#2 imm rd 1#2)
  | .cSub rd rs2 => .parcel (encCA 0b100011#6 rd 0#2 rs2 1#2)
  | .cXor rd rs2 => .parcel (encCA 0b100011#6 rd 1#2 rs2 1#2)
  | .cOr rd rs2 => .parcel (encCA 0b100011#6 rd 2#2 rs2 1#2)
  | .cAnd rd rs2 => .parcel (encCA 0b100011#6 rd 3#2 rs2 1#2)
  | .cSubw rd rs2 => .parcel (encCA 0b100111#6 rd 0#2 rs2 1#2)
  | .cAddw rd rs2 => .parcel (encCA 0b100111#6 rd 1#2 rs2 1#2)
  | .cJ imm => .parcel (encCJ 5#3 imm 1#2)
  | .cBeqz rs1 imm => .parcel (encCBr 6#3 imm rs1 1#2)
  | .cBnez rs1 imm => .parcel (encCBr 7#3 imm rs1 1#2)
  | .cSlli rd shamt => .parcel (encCI 0#3 shamt rd 2#2)
  | .cFldsp rd imm => .parcel (encCLDSP 1#3 imm rd 2#2)
  | .cLwsp rd imm => .parcel (encCLWSP 2#3 imm rd 2#2)
  | .cFlwsp rd imm => .parcel (encCLWSP 3#3 imm rd 2#2)
  | .cLdsp rd imm => .parcel (encCLDSP 3#3 imm rd 2#2)
  | .cJr rs1 => .parcel (encCR 8#4 rs1 0#5 2#2)
  | .cMv rd rs2 => .parcel (encCR 8#4 rd rs2 2#2)
  | .cEbreak => .parcel 0x9002#16
  | .cJalr rs1 => .parcel (encCR 9#4 rs1 0#5 2#2)
  | .cAdd rd rs2 => .parcel (encCR 9#4 rd rs2 2#2)
  | .cFsdsp rs2 imm => .parcel (encCSDSP 5#3 imm rs2 2#2)
  | .cSwsp rs2 imm => .parcel (encCSWSP 6#3 imm rs2 2#2)
  | .cFswsp rs2 imm => .parcel (encCSWSP 7#3 imm rs2 2#2)
  | .cSdsp rs2 imm => .parcel (encCSDSP 7#3 imm rs2 2#2)

/-- The encoding as the fetch presents it: a parcel is zero-extended (40_step.md rule R423). -/
def Encoded.bits : Encoded → BitVec 32
  | .parcel c => c.setWidth 32
  | .word w => w

/-- The encoding as bytes, the lowest address first (20_memory.md rule R211). -/
def Encoded.bytes : Encoded → List Byte
  | .parcel c => [c.extractLsb' 0 8, c.extractLsb' 8 8]
  | .word w => [w.extractLsb' 0 8, w.extractLsb' 8 8, w.extractLsb' 16 8, w.extractLsb' 24 8]

/-- The length in bytes (rule R330). -/
def Encoded.len : Encoded → Nat
  | .parcel _ => 2
  | .word _ => 4

/-- The length of an instruction in bytes (rule R330). -/
def Instr.len (i : Instr) : Nat := (encode i).len

/-- The trap value of an illegal-instruction exception an instruction raises: its bits, zero-extended
(rule R370). -/
def Instr.bits (i : Instr) : Word := (encode i).bits.setWidth 64

/-- The opcode table's numbering, for the build of `State.reset` (log entry 2): the instruction the decoder reads from
the bytes of `w`. -/
def decodeTableWord (_nbits w : Nat) : Option Instr :=
  match decode Build.default.xlen (Encoded.word (BitVec.ofNat 32 w)).bytes with
  | .ok (i, _) => some i
  | .error _ => none

end Sys2Proof
end

