-- ==== Sys2Proof/Machine/Compressed.lean ====
section
/-!
DEFINITION. Machine/Compressed.lean: the compressed instructions (49_compressed.md): the effect of each is its
expansion's (rule R780).
-/

namespace Sys2Proof.Machine

/-- `c.illegal` (30_encoding.md rule R385). -/
def execCIllegal (w : BitVec 16) (s : State) : Result := .next (illegal (Instr.bits (.cIllegal w)) s)

/-- `c.addi4spn` (49_compressed.md rule R790). -/
def execCAddi4spn (rd : CReg) (imm : BitVec 8) (s : State) : Result :=
  .next (writeX (cReg rd) (readX 2 s + scaledImm 2 imm) s)

/-- `c.fld` (49_compressed.md rule R791). -/
def execCFld (rd : CFReg) (rs1 : CReg) (imm : BitVec 5) (s : State) : Result :=
  .next (loadF (Instr.bits (.cFld rd rs1 imm)) .d (cReg rd) (effAddr (cReg rs1) (scaledImm 3 imm) s) s)

/-- `c.lw` (49_compressed.md rule R792). -/
def execCLw (rd rs1 : CReg) (imm : BitVec 5) (s : State) : Result :=
  .next (loadX (cReg rd) (effAddr (cReg rs1) (scaledImm 2 imm) s) 4 .signed s)

/-- `c.flw` (49_compressed.md rule R793). -/
def execCFlw (rd : CFReg) (rs1 : CReg) (imm : BitVec 5) (s : State) : Result :=
  .next (loadF (Instr.bits (.cFlw rd rs1 imm)) .s (cReg rd) (effAddr (cReg rs1) (scaledImm 2 imm) s) s)

/-- `c.ld` (49_compressed.md rule R794). -/
def execCLd (rd rs1 : CReg) (imm : BitVec 5) (s : State) : Result :=
  .next (loadX (cReg rd) (effAddr (cReg rs1) (scaledImm 3 imm) s) 8 .unsigned s)

/-- `c.fsd` (49_compressed.md rule R795). -/
def execCFsd (rs1 : CReg) (rs2 : CFReg) (imm : BitVec 5) (s : State) : Result :=
  .next (storeF (Instr.bits (.cFsd rs1 rs2 imm)) .d (cReg rs2) (effAddr (cReg rs1) (scaledImm 3 imm) s) s)

/-- `c.sw` (49_compressed.md rule R796). -/
def execCSw (rs1 rs2 : CReg) (imm : BitVec 5) (s : State) : Result :=
  .next (storeBytes (effAddr (cReg rs1) (scaledImm 2 imm) s) 4 (readX (cReg rs2) s) s)

/-- `c.fsw` (49_compressed.md rule R797). -/
def execCFsw (rs1 : CReg) (rs2 : CFReg) (imm : BitVec 5) (s : State) : Result :=
  .next (storeF (Instr.bits (.cFsw rs1 rs2 imm)) .s (cReg rs2) (effAddr (cReg rs1) (scaledImm 2 imm) s) s)

/-- `c.sd` (49_compressed.md rule R798). -/
def execCSd (rs1 rs2 : CReg) (imm : BitVec 5) (s : State) : Result :=
  .next (storeBytes (effAddr (cReg rs1) (scaledImm 3 imm) s) 8 (readX (cReg rs2) s) s)

/-- `c.nop` (49_compressed.md rule R800). -/
def execCNop (imm : BitVec 6) (s : State) : Result := .next (writeX 0 (readX 0 s + sextImm imm) s)

/-- `c.addi` (49_compressed.md rule R801). -/
def execCAddi (rd : Reg) (imm : BitVec 6) (s : State) : Result := .next (writeX rd (readX rd s + sextImm imm) s)

/-- `c.jal` (49_compressed.md rule R802). -/
def execCJal (imm : BitVec 11) (s : State) : Result := .next (writeX 1 (linkAddr 2 s) (jumpRel (sextHalf imm) s))

/-- `c.addiw` (49_compressed.md rule R803). -/
def execCAddiw (rd : Reg) (imm : BitVec 6) (s : State) : Result :=
  .next (writeX rd (sext32 (readX rd s + sextImm imm)) s)

/-- `c.li` (49_compressed.md rule R804). -/
def execCLi (rd : Reg) (imm : BitVec 6) (s : State) : Result := .next (writeX rd (readX 0 s + sextImm imm) s)

/-- `c.addi16sp` (49_compressed.md rule R805). -/
def execCAddi16sp (imm : BitVec 6) (s : State) : Result := .next (writeX 2 (readX 2 s + imm16sp imm) s)

/-- `c.lui` (49_compressed.md rule R806). -/
def execCLui (rd : Reg) (imm : BitVec 6) (s : State) : Result := .next (writeX rd (upperImm imm) s)

/-- `c.srli` (49_compressed.md rule R807). -/
def execCSrli (rd : CReg) (shamt : BitVec 6) (s : State) : Result :=
  .next (writeX (cReg rd) (readX (cReg rd) s >>> shamt.toNat) s)

/-- `c.srai` (49_compressed.md rule R808). -/
def execCSrai (rd : CReg) (shamt : BitVec 6) (s : State) : Result :=
  .next (writeX (cReg rd) ((sx s.cfg.xlen (readX (cReg rd) s)).sshiftRight shamt.toNat) s)

/-- `c.andi` (49_compressed.md rule R809). -/
def execCAndi (rd : CReg) (imm : BitVec 6) (s : State) : Result :=
  .next (writeX (cReg rd) (readX (cReg rd) s &&& sextImm imm) s)

/-- `c.sub` (49_compressed.md rule R810). -/
def execCSub (rd rs2 : CReg) (s : State) : Result :=
  .next (writeX (cReg rd) (readX (cReg rd) s - readX (cReg rs2) s) s)

/-- `c.xor` (49_compressed.md rule R811). -/
def execCXor (rd rs2 : CReg) (s : State) : Result :=
  .next (writeX (cReg rd) (readX (cReg rd) s ^^^ readX (cReg rs2) s) s)

/-- `c.or` (49_compressed.md rule R812). -/
def execCOr (rd rs2 : CReg) (s : State) : Result :=
  .next (writeX (cReg rd) (readX (cReg rd) s ||| readX (cReg rs2) s) s)

/-- `c.and` (49_compressed.md rule R813). -/
def execCAnd (rd rs2 : CReg) (s : State) : Result :=
  .next (writeX (cReg rd) (readX (cReg rd) s &&& readX (cReg rs2) s) s)

/-- `c.subw` (49_compressed.md rule R814). -/
def execCSubw (rd rs2 : CReg) (s : State) : Result :=
  .next (writeX (cReg rd) (sext32 (readX (cReg rd) s - readX (cReg rs2) s)) s)

/-- `c.addw` (49_compressed.md rule R815). -/
def execCAddw (rd rs2 : CReg) (s : State) : Result :=
  .next (writeX (cReg rd) (sext32 (readX (cReg rd) s + readX (cReg rs2) s)) s)

/-- `c.j` (49_compressed.md rule R816). -/
def execCJ (imm : BitVec 11) (s : State) : Result := .next (jumpRel (sextHalf imm) s)

/-- `c.beqz` (49_compressed.md rule R817). -/
def execCBeqz (rs1 : CReg) (imm : BitVec 8) (s : State) : Result :=
  .next (branch (readX (cReg rs1) s == 0) (sextHalf imm) s)

/-- `c.bnez` (49_compressed.md rule R818). -/
def execCBnez (rs1 : CReg) (imm : BitVec 8) (s : State) : Result :=
  .next (branch (readX (cReg rs1) s != 0) (sextHalf imm) s)

/-- `c.slli` (49_compressed.md rule R820). -/
def execCSlli (rd : Reg) (shamt : BitVec 6) (s : State) : Result := .next (writeX rd (readX rd s <<< shamt.toNat) s)

/-- `c.fldsp` (49_compressed.md rule R821). -/
def execCFldsp (rd : FReg) (imm : BitVec 6) (s : State) : Result :=
  .next (loadF (Instr.bits (.cFldsp rd imm)) .d rd (effAddr 2 (scaledImm 3 imm) s) s)

/-- `c.lwsp` (49_compressed.md rule R822). -/
def execCLwsp (rd : Reg) (imm : BitVec 6) (s : State) : Result :=
  .next (loadX rd (effAddr 2 (scaledImm 2 imm) s) 4 .signed s)

/-- `c.flwsp` (49_compressed.md rule R823). -/
def execCFlwsp (rd : FReg) (imm : BitVec 6) (s : State) : Result :=
  .next (loadF (Instr.bits (.cFlwsp rd imm)) .s rd (effAddr 2 (scaledImm 2 imm) s) s)

/-- `c.ldsp` (49_compressed.md rule R824). -/
def execCLdsp (rd : Reg) (imm : BitVec 6) (s : State) : Result :=
  .next (loadX rd (effAddr 2 (scaledImm 3 imm) s) 8 .unsigned s)

/-- `c.jr` (49_compressed.md rule R830). -/
def execCJr (rs1 : Reg) (s : State) : Result := .next (jumpReg 0 rs1 0 2 s)

/-- `c.mv` (49_compressed.md rule R831). -/
def execCMv (rd rs2 : Reg) (s : State) : Result := .next (writeX rd (readX 0 s + readX rs2 s) s)

/-- `c.ebreak` (49_compressed.md rule R833). -/
def execCEbreak (s : State) : Result := .next (breakOrHalt s)

/-- `c.jalr` (49_compressed.md rule R832). -/
def execCJalr (rs1 : Reg) (s : State) : Result := .next (jumpReg 1 rs1 0 2 s)

/-- `c.add` (49_compressed.md rule R834). -/
def execCAdd (rd rs2 : Reg) (s : State) : Result := .next (writeX rd (readX rd s + readX rs2 s) s)

/-- `c.fsdsp` (49_compressed.md rule R835). -/
def execCFsdsp (rs2 : FReg) (imm : BitVec 6) (s : State) : Result :=
  .next (storeF (Instr.bits (.cFsdsp rs2 imm)) .d rs2 (effAddr 2 (scaledImm 3 imm) s) s)

/-- `c.swsp` (49_compressed.md rule R836). -/
def execCSwsp (rs2 : Reg) (imm : BitVec 6) (s : State) : Result :=
  .next (storeBytes (effAddr 2 (scaledImm 2 imm) s) 4 (readX rs2 s) s)

/-- `c.fswsp` (49_compressed.md rule R837). -/
def execCFswsp (rs2 : FReg) (imm : BitVec 6) (s : State) : Result :=
  .next (storeF (Instr.bits (.cFswsp rs2 imm)) .s rs2 (effAddr 2 (scaledImm 2 imm) s) s)

/-- `c.sdsp` (49_compressed.md rule R838). -/
def execCSdsp (rs2 : Reg) (imm : BitVec 6) (s : State) : Result :=
  .next (storeBytes (effAddr 2 (scaledImm 3 imm) s) 8 (readX rs2 s) s)

end Sys2Proof.Machine
end

