-- ==== Sys2Proof/Machine/Control.lean ====
section
/-!
DEFINITION. Machine/Control.lean: jumps and conditional branches (42_control.md).
-/

namespace Sys2Proof.Machine

/-- `jal` (42_control.md rule R501). -/
def execJal (rd : Reg) (imm : BitVec 20) (s : State) : Result :=
  .next (writeX rd (linkAddr 4 s) (jumpRel (sextHalf imm) s))

/-- `jalr` (42_control.md rule R502). -/
def execJalr (rd rs1 : Reg) (imm : BitVec 12) (s : State) : Result := .next (jumpReg rd rs1 (sextImm imm) 4 s)

/-- `beq` (42_control.md rule R504). -/
def execBeq (rs1 rs2 : Reg) (imm : BitVec 12) (s : State) : Result :=
  .next (branch (readX rs1 s == readX rs2 s) (sextHalf imm) s)

/-- `bne` (42_control.md rule R505). -/
def execBne (rs1 rs2 : Reg) (imm : BitVec 12) (s : State) : Result :=
  .next (branch (readX rs1 s != readX rs2 s) (sextHalf imm) s)

/-- `blt` (42_control.md rule R506). -/
def execBlt (rs1 rs2 : Reg) (imm : BitVec 12) (s : State) : Result :=
  .next (branch (ltS s.cfg.xlen (readX rs1 s) (readX rs2 s)) (sextHalf imm) s)

/-- `bge` (42_control.md rule R507). -/
def execBge (rs1 rs2 : Reg) (imm : BitVec 12) (s : State) : Result :=
  .next (branch (!ltS s.cfg.xlen (readX rs1 s) (readX rs2 s)) (sextHalf imm) s)

/-- `bltu` (42_control.md rule R508). -/
def execBltu (rs1 rs2 : Reg) (imm : BitVec 12) (s : State) : Result :=
  .next (branch (ltU (readX rs1 s) (readX rs2 s)) (sextHalf imm) s)

/-- `bgeu` (42_control.md rule R509). -/
def execBgeu (rs1 rs2 : Reg) (imm : BitVec 12) (s : State) : Result :=
  .next (branch (!ltU (readX rs1 s) (readX rs2 s)) (sextHalf imm) s)

end Sys2Proof.Machine
end

