-- ==== Sys2Proof/Machine/FpArith.lean ====
section
/-!
DEFINITION. Machine/FpArith.lean: the default `FpArith` of 47_float_f.md rule R661, IEEE 754-2008 arithmetic over
exact integers, and the bit-level definitions of sign injection, minimum, maximum, comparison and classification.
Every operation computes its exact result as `± m * 2^e` (a quotient or a root with its lost part kept in the lowest
bit) and rounds it once. A pattern of either format is held in 64 bits, a single's upper half zero.
-/

namespace Sys2Proof

/-! ### Formats (rule R666) -/

/-- Fraction bits. -/
def Fmt.frac : Fmt → Nat
  | .s => 23
  | .d => 52

/-- Exponent bits. -/
def Fmt.expBits : Fmt → Nat
  | .s => 8
  | .d => 11

/-- The precision: fraction bits and the hidden bit. -/
def Fmt.prec (f : Fmt) : Nat := f.frac + 1

/-- The largest biased exponent, that of infinities and NaNs. -/
def Fmt.maxExp (f : Fmt) : Nat := 2 ^ f.expBits - 1

/-- The bias. -/
def Fmt.bias (f : Fmt) : Int := 2 ^ (f.expBits - 1) - 1

/-- The exponent of the lowest bit of the smallest subnormal. -/
def Fmt.minQ (f : Fmt) : Int := 2 - f.bias - f.prec

/-- The magnitude of infinity. -/
def Fmt.infMag (f : Fmt) : Nat := f.maxExp * 2 ^ f.frac

/-- The other format, the source of a float-to-float conversion. -/
def Fmt.other : Fmt → Fmt
  | .s => .d
  | .d => .s

namespace Machine


/-- The sign bit of a pattern. -/
def fpSign (f : Fmt) (v : BitVec 64) : Bool := v.getLsbD (f.frac + f.expBits)

/-- The biased exponent of a pattern. -/
def fpExp (f : Fmt) (v : BitVec 64) : Nat := (v.toNat >>> f.frac) % 2 ^ f.expBits

/-- The fraction of a pattern. -/
def fpFrac (f : Fmt) (v : BitVec 64) : Nat := v.toNat % 2 ^ f.frac

/-- The magnitude of a pattern as a number: the order of non-NaN magnitudes. -/
def fpMag (f : Fmt) (v : BitVec 64) : Nat := v.toNat % 2 ^ (f.frac + f.expBits)

/-- A sign and a magnitude as a pattern. -/
def fpPattern (f : Fmt) (sign : Bool) (mag : Nat) : BitVec 64 :=
  BitVec.ofNat 64 (mag + if sign then 2 ^ (f.frac + f.expBits) else 0)

/-- A NaN. -/
def isNaN (f : Fmt) (v : BitVec 64) : Bool := fpExp f v == f.maxExp && fpFrac f v != 0

/-- A signaling NaN: the top fraction bit is 0. -/
def isSNaN (f : Fmt) (v : BitVec 64) : Bool := isNaN f v && !v.getLsbD (f.frac - 1)

/-- An infinity. -/
def isInf (f : Fmt) (v : BitVec 64) : Bool := fpMag f v == f.infMag

/-- A zero. -/
def isZero (f : Fmt) (v : BitVec 64) : Bool := fpMag f v == 0

/-- The canonical NaN (rule R667). -/
def canonNaN (f : Fmt) : BitVec 64 := fpPattern f false (f.infMag + 2 ^ (f.frac - 1))

/-- A finite value `± m * 2^e`. -/
structure Fin2 where
  sign : Bool
  m    : Nat
  e    : Int
deriving DecidableEq, Repr

/-- The value of a finite pattern. -/
def unpack (f : Fmt) (v : BitVec 64) : Fin2 :=
  if fpExp f v = 0 then ⟨fpSign f v, fpFrac f v, f.minQ⟩
  else ⟨fpSign f v, fpFrac f v + 2 ^ f.frac, f.minQ + (fpExp f v - 1)⟩

/-! ### Rounding -/

/-- Whether a magnitude with a lost part is rounded away from zero: `odd` is the lowest kept bit, `cmp` compares the
lost part with one half (rule R665). -/
def roundsUp (rm : BitVec 3) (sign odd : Bool) (cmp : Ordering) : Bool :=
  match rm with
  | 0#3 => cmp == .gt || (cmp == .eq && odd)
  | 1#3 => false
  | 2#3 => sign
  | 3#3 => !sign
  | _ => cmp != .lt

/-- `m * 2^e` as an integer multiple of `2^q`: the rounded multiple and whether anything was lost. -/
def roundAt (rm : BitVec 3) (sign : Bool) (m : Nat) (e q : Int) : Nat × Bool :=
  if q ≤ e then (m <<< (e - q).toNat, false)
  else
    let k := (q - e).toNat
    let kept := m >>> k
    let lost := m % 2 ^ k
    if lost = 0 then (kept, false)
    else (if roundsUp rm sign (kept % 2 == 1) (compare (2 * lost) (2 ^ k)) then kept + 1 else kept, true)

/-- The magnitude an overflow gives (rule R668, OF). -/
def overflowMag (f : Fmt) (rm : BitVec 3) (sign : Bool) : Nat :=
  let toInf := match rm with
    | 0#3 => true
    | 1#3 => false
    | 2#3 => sign
    | 3#3 => !sign
    | _ => true
  if toInf then f.infMag else f.infMag - 1

/-- Round `± m * 2^e`, `m` nonzero, into a format: the pattern and the flags, tininess after rounding
(rules R661, R668). -/
def roundPack (f : Fmt) (rm : BitVec 3) (v : Fin2) : BitVec 64 × BitVec 5 :=
  let top : Int := v.m.log2 + v.e
  let qn : Int := top - f.frac
  let q : Int := max qn f.minQ
  let (r, inexact) := roundAt rm v.sign v.m v.e q
  let mag := (q - f.minQ).toNat * 2 ^ f.frac + r
  if f.infMag ≤ mag then (fpPattern f v.sign (overflowMag f rm v.sign), 0b00101#5)
  else
    let tiny := decide (qn < f.minQ) &&
      !(decide (qn + 1 = f.minQ) && (roundAt rm v.sign v.m v.e qn).1 == 2 ^ f.prec)
    (fpPattern f v.sign mag, if inexact then (if tiny then 0b00011#5 else 0b00001#5) else 0b00000#5)

/-- A finite result: an exact zero keeps its sign, anything else is rounded. -/
def roundResult (f : Fmt) (rm : BitVec 3) (v : Fin2) : BitVec 64 × BitVec 5 :=
  if v.m = 0 then (fpPattern f v.sign 0, 0#5) else roundPack f rm v

/-- An invalid operation: the canonical NaN and NV alone (rule R668). -/
def invalid (f : Fmt) : BitVec 64 × BitVec 5 := (canonNaN f, 0b10000#5)

/-- A NaN operand: the canonical NaN, with NV for a signaling one (rule R667). -/
def nanResult (f : Fmt) (signaling : Bool) : BitVec 64 × BitVec 5 :=
  (canonNaN f, if signaling then 0b10000#5 else 0#5)

/-! ### The exact operations -/

/-- The exact sum; an exact zero of unlike signs is `+0`, or `-0` under RDN (rule R669). -/
def exactAdd (rm : BitVec 3) (a b : Fin2) : Fin2 :=
  let e := min a.e b.e
  let ma : Int := (a.m <<< (a.e - e).toNat : Nat)
  let mb : Int := (b.m <<< (b.e - e).toNat : Nat)
  let sum := (if a.sign then -ma else ma) + (if b.sign then -mb else mb)
  if sum = 0 then ⟨if a.sign = b.sign then a.sign else rm == 2#3, 0, e⟩
  else ⟨decide (sum < 0), sum.natAbs, e⟩

/-- The exact product. -/
def exactMul (a b : Fin2) : Fin2 := ⟨a.sign != b.sign, a.m * b.m, a.e + b.e⟩

/-- `a / b` for nonzero finite operands, to more bits than the format has, the lost part kept in the lowest bit. -/
def stickyDiv (f : Fmt) (a b : Fin2) : Fin2 :=
  let k := f.prec + 3 + b.m.log2 - a.m.log2
  let n := a.m <<< k
  ⟨a.sign != b.sign, 2 * (n / b.m) + (if n % b.m = 0 then 0 else 1), a.e - b.e - k - 1⟩

/-- The integer square root, bit by bit from bit `k - 1` down. -/
def isqrt (n : Nat) : (k : Nat) → (root : Nat) → Nat
  | 0, root => root
  | k + 1, root =>
    let t := root + 2 ^ k
    isqrt n k (if t * t ≤ n then t else root)

/-- The square root of a positive finite operand, the lost part kept in the lowest bit. -/
def stickySqrt (f : Fmt) (a : Fin2) : Fin2 :=
  let k := 2 * (f.prec + 2) - a.m.log2
  let k := if (a.e - k) % 2 = 0 then k else k + 1
  let n := a.m <<< k
  let r := isqrt n (n.log2 / 2 + 1) 0
  ⟨false, 2 * r + (if r * r = n then 0 else 1), (a.e - k) / 2 - 1⟩

/-! ### Addition, multiplication, division, square root, fused multiply-add -/

/-- `a + b` (rule R672). -/
def ieeeAdd (f : Fmt) (rm : BitVec 3) (a b : BitVec 64) : BitVec 64 × BitVec 5 :=
  if isNaN f a || isNaN f b then nanResult f (isSNaN f a || isSNaN f b)
  else if isInf f a then if isInf f b && fpSign f a != fpSign f b then invalid f else (a, 0#5)
  else if isInf f b then (b, 0#5)
  else roundResult f rm (exactAdd rm (unpack f a) (unpack f b))

/-- A pattern with its sign inverted. -/
def fpNeg (f : Fmt) (v : BitVec 64) : BitVec 64 := fpPattern f (!fpSign f v) (fpMag f v)

/-- `a - b` (rule R673). -/
def ieeeSub (f : Fmt) (rm : BitVec 3) (a b : BitVec 64) : BitVec 64 × BitVec 5 :=
  if isNaN f a || isNaN f b then nanResult f (isSNaN f a || isSNaN f b) else ieeeAdd f rm a (fpNeg f b)

/-- `a * b` (rule R674). -/
def ieeeMul (f : Fmt) (rm : BitVec 3) (a b : BitVec 64) : BitVec 64 × BitVec 5 :=
  if isNaN f a || isNaN f b then nanResult f (isSNaN f a || isSNaN f b)
  else if isInf f a || isInf f b then
    if isZero f a || isZero f b then invalid f else (fpPattern f (fpSign f a != fpSign f b) f.infMag, 0#5)
  else roundResult f rm (exactMul (unpack f a) (unpack f b))

/-- `a / b` (rule R675). -/
def ieeeDiv (f : Fmt) (rm : BitVec 3) (a b : BitVec 64) : BitVec 64 × BitVec 5 :=
  let sign := fpSign f a != fpSign f b
  if isNaN f a || isNaN f b then nanResult f (isSNaN f a || isSNaN f b)
  else if isInf f a then if isInf f b then invalid f else (fpPattern f sign f.infMag, 0#5)
  else if isInf f b then (fpPattern f sign 0, 0#5)
  else if isZero f b then if isZero f a then invalid f else (fpPattern f sign f.infMag, 0b01000#5)
  else if isZero f a then (fpPattern f sign 0, 0#5)
  else roundPack f rm (stickyDiv f (unpack f a) (unpack f b))

/-- The square root of `a` (rule R676). -/
def ieeeSqrt (f : Fmt) (rm : BitVec 3) (a : BitVec 64) : BitVec 64 × BitVec 5 :=
  if isNaN f a then nanResult f (isSNaN f a)
  else if isZero f a then (a, 0#5)
  else if fpSign f a then invalid f
  else if isInf f a then (a, 0#5)
  else roundPack f rm (stickySqrt f (unpack f a))

/-- `(± a * b) + (± c)`, rounded once (rules R677 to R680): the two flags say which of product and addend is
negated. -/
def ieeeFma (f : Fmt) (rm : BitVec 3) (negProduct negAddend : Bool) (a b c : BitVec 64) : BitVec 64 × BitVec 5 :=
  let psign := (fpSign f a != fpSign f b) != negProduct
  let csign := fpSign f c != negAddend
  let badProduct := (isInf f a && isZero f b) || (isZero f a && isInf f b)
  if isNaN f a || isNaN f b || isNaN f c then
    nanResult f (isSNaN f a || isSNaN f b || isSNaN f c || badProduct)
  else if badProduct then invalid f
  else if isInf f a || isInf f b then
    if isInf f c && psign != csign then invalid f else (fpPattern f psign f.infMag, 0#5)
  else if isInf f c then (fpPattern f csign f.infMag, 0#5)
  else
    let p := exactMul (unpack f a) (unpack f b)
    roundResult f rm (exactAdd rm { p with sign := psign } { unpack f c with sign := csign })

/-! ### Conversions (rule R700) -/

/-- The least and greatest integer of a destination. -/
def intRange (width : Nat) (isSigned : Bool) : Int × Int :=
  if isSigned then (-(2 ^ (width - 1)), 2 ^ (width - 1) - 1) else (0, 2 ^ width - 1)

/-- Float to integer: the value modulo 2^64. -/
def ieeeToInt (f : Fmt) (rm : BitVec 3) (width : Nat) (isSigned : Bool) (a : BitVec 64) : BitVec 64 × BitVec 5 :=
  let (lo, hi) := intRange width isSigned
  if isNaN f a then (BitVec.ofInt 64 hi, 0b10000#5)
  else if isInf f a then (BitVec.ofInt 64 (if fpSign f a then lo else hi), 0b10000#5)
  else
    let v := unpack f a
    let (r, inexact) := roundAt rm v.sign v.m v.e 0
    let n : Int := if v.sign then -r else r
    if n < lo then (BitVec.ofInt 64 lo, 0b10000#5)
    else if hi < n then (BitVec.ofInt 64 hi, 0b10000#5)
    else (BitVec.ofInt 64 n, if inexact then 0b00001#5 else 0#5)

/-- Integer to float: the operand is the low `width` bits. -/
def ieeeOfInt (f : Fmt) (rm : BitVec 3) (width : Nat) (isSigned : Bool) (a : BitVec 64) : BitVec 64 × BitVec 5 :=
  let u : Nat := a.toNat % 2 ^ width
  let n : Int := if isSigned && decide (2 ^ (width - 1) ≤ u) then (u : Int) - 2 ^ width else u
  roundResult f rm ⟨decide (n < 0), n.natAbs, 0⟩

/-- Float to float, into format `f` (48_float_d.md rules R741, R742). -/
def ieeeCvt (f : Fmt) (rm : BitVec 3) (a : BitVec 64) : BitVec 64 × BitVec 5 :=
  let g := f.other
  if isNaN g a then nanResult f (isSNaN g a)
  else if isInf g a then (fpPattern f (fpSign g a) f.infMag, 0#5)
  else roundResult f rm (unpack g a)

/-- The default `FpArith` (rule R661). -/
def ieeeArith (op : FpOp) (f : Fmt) (rm : BitVec 3) (a b c : BitVec 64) : BitVec 64 × BitVec 5 :=
  match op with
  | .add => ieeeAdd f rm a b
  | .sub => ieeeSub f rm a b
  | .mul => ieeeMul f rm a b
  | .div => ieeeDiv f rm a b
  | .sqrt => ieeeSqrt f rm a
  | .fmadd => ieeeFma f rm false false a b c
  | .fmsub => ieeeFma f rm false true a b c
  | .fnmsub => ieeeFma f rm true false a b c
  | .fnmadd => ieeeFma f rm true true a b c
  | .cvtF2I width isSigned => ieeeToInt f rm width isSigned a
  | .cvtI2F width isSigned => ieeeOfInt f rm width isSigned a
  | .cvtF2F => ieeeCvt f rm a

/-- `FpArith` of a build (rule R661): the default, or the host's free function (log entry 10). -/
def fpArith (choice : FpChoice) (op : FpOp) (f : Fmt) (rm : BitVec 3) (a b c : BitVec 64) : BitVec 64 × BitVec 5 :=
  match choice with
  | .ieee754 => ieeeArith op f rm a b c
  | .host => Config.hostFpArith op f rm a b c

/-! ### The bit-level operations, which do not use `FpArith` -/

/-- Sign injection: the sign given and the magnitude of `a` (rules R681 to R683). -/
def sgnj (f : Fmt) (sign : Bool) (a : BitVec 64) : BitVec 64 := fpPattern f sign (fpMag f a)

/-- `a < b` for non-NaN patterns; zeros are equal. -/
def fpLt (f : Fmt) (a b : BitVec 64) : Bool :=
  if isZero f a && isZero f b then false
  else
    match fpSign f a, fpSign f b with
    | true, false => true
    | false, true => false
    | false, false => decide (fpMag f a < fpMag f b)
    | true, true => decide (fpMag f b < fpMag f a)

/-- `a == b` for non-NaN patterns; zeros are equal. -/
def fpEq (f : Fmt) (a b : BitVec 64) : Bool :=
  (isZero f a && isZero f b) || (fpSign f a == fpSign f b && fpMag f a == fpMag f b)

/-- Minimum (rule R684) or, with `isMax`, maximum (rule R685). -/
def fpMinMax (f : Fmt) (isMax : Bool) (a b : BitVec 64) : BitVec 64 × BitVec 5 :=
  let fl := if isSNaN f a || isSNaN f b then 0b10000#5 else 0#5
  if isNaN f a && isNaN f b then (canonNaN f, fl)
  else if isNaN f a then (b, fl)
  else if isNaN f b then (a, fl)
  else if isZero f a && isZero f b && fpSign f a != fpSign f b then (fpPattern f (!isMax) 0, fl)
  else (if fpLt f a b != isMax then a else b, fl)

/-- FEQ: quiet (rule R686). -/
def fpFeq (f : Fmt) (a b : BitVec 64) : Bool × BitVec 5 :=
  (!isNaN f a && !isNaN f b && fpEq f a b, if isSNaN f a || isSNaN f b then 0b10000#5 else 0#5)

/-- FLT: signaling (rule R687). -/
def fpFlt (f : Fmt) (a b : BitVec 64) : Bool × BitVec 5 :=
  if isNaN f a || isNaN f b then (false, 0b10000#5) else (fpLt f a b, 0#5)

/-- FLE: signaling (rule R688). -/
def fpFle (f : Fmt) (a b : BitVec 64) : Bool × BitVec 5 :=
  if isNaN f a || isNaN f b then (false, 0b10000#5) else (fpLt f a b || fpEq f a b, 0#5)

/-- FCLASS: the mask with one bit set (rule R689). -/
def fpClass (f : Fmt) (a : BitVec 64) : Word :=
  if isNaN f a then if isSNaN f a then 0x100 else 0x200
  else if isInf f a then if fpSign f a then 0x001 else 0x080
  else if isZero f a then if fpSign f a then 0x008 else 0x010
  else if fpExp f a = 0 then if fpSign f a then 0x004 else 0x020
  else if fpSign f a then 0x002 else 0x040

end Machine

end Sys2Proof
end

