-- ==== Sys2Proof/Machine/FloatOps.lean ====
section
/-!
DEFINITION. Machine/FloatOps.lean: the shapes of the floating-point instructions (47_float_f.md rules R660 to R669,
R700): the checks, the operands, the arithmetic, the destination and the flags, once for both formats.
-/

namespace Sys2Proof.Machine

/-- The enable check and the rounding-mode check, then an effect with the rounding mode (rules R663, R665). -/
def fpRounded (bits : Word) (rm : Rm) (s : State) (k : Rm → State → State) : State :=
  fpEnabled bits s fun s =>
    match effRm rm s with
    | none => illegal bits s
    | some m => k m s

/-- `f[rd] <- r; fflags <- fflags | fl; FS <- 3`. -/
def writeFResult (fmt : Fmt) (rd : FReg) (r : BitVec 64 × BitVec 5) (s : State) : State :=
  accrue r.2 (writeFDirty rd (packFmt fmt r.1) s)

/-- `x[rd] <- v; fflags <- fflags | fl`. -/
def writeXResult (rd : Reg) (v : Word) (fl : BitVec 5) (s : State) : State := accrue fl (writeX rd v s)

/-- An operation of `FpArith` on one, two or three registers of its format; an operation ignores the operands it does
not have (rule R661). -/
def fpCompute (bits : Word) (op : FpOp) (fmt : Fmt) (rd rs1 rs2 rs3 : FReg) (rm : Rm) (s : State) : State :=
  fpRounded bits rm s fun m s =>
    writeFResult fmt rd (fpArith s.cfg.fp op fmt m (readFmt fmt rs1 s) (readFmt fmt rs2 s) (readFmt fmt rs3 s)) s

/-- Two operands. -/
def fpBinary (bits : Word) (op : FpOp) (fmt : Fmt) (rd rs1 rs2 : FReg) (rm : Rm) (s : State) : State :=
  fpRounded bits rm s fun m s =>
    writeFResult fmt rd (fpArith s.cfg.fp op fmt m (readFmt fmt rs1 s) (readFmt fmt rs2 s) 0) s

/-- One operand. -/
def fpUnary (bits : Word) (op : FpOp) (fmt : Fmt) (rd rs1 : FReg) (rm : Rm) (s : State) : State :=
  fpRounded bits rm s fun m s =>
    writeFResult fmt rd (fpArith s.cfg.fp op fmt m (readFmt fmt rs1 s) 0 0) s

/-- Float to integer (rule R700): a 32-bit result is sign-extended, the unsigned one too. -/
def fpToInt (bits : Word) (fmt : Fmt) (width : Nat) (isSigned : Bool) (rd : Reg) (rs1 : FReg) (rm : Rm) (s : State) :
    State :=
  fpRounded bits rm s fun m s =>
    let r := fpArith s.cfg.fp (.cvtF2I width isSigned) fmt m (readFmt fmt rs1 s) 0 0
    writeXResult rd (if width = 32 then sext32 r.1 else r.1) r.2 s

/-- Integer to float (rules R694 to R697, R747 to R750): the operand is `x[rs1][width-1:0]`. -/
def fpOfInt (bits : Word) (fmt : Fmt) (width : Nat) (isSigned : Bool) (rd : FReg) (rs1 : Reg) (rm : Rm) (s : State) :
    State :=
  fpRounded bits rm s fun m s =>
    let a := if width = 32 then truncBytes 4 (readX rs1 s) else readX rs1 s
    writeFResult fmt rd (fpArith s.cfg.fp (.cvtI2F width isSigned) fmt m a 0 0) s

/-- Float to float into format `fmt` (48_float_d.md rules R741, R742). -/
def fpConvert (bits : Word) (fmt : Fmt) (rd rs1 : FReg) (rm : Rm) (s : State) : State :=
  fpRounded bits rm s fun m s =>
    writeFResult fmt rd (fpArith s.cfg.fp .cvtF2F fmt m (readFmt fmt.other rs1 s) 0 0) s

/-- Sign injection (rules R681 to R683): the sign is a function of the two operands' signs. -/
def fpSignInject (bits : Word) (fmt : Fmt) (sign : Bool → Bool → Bool) (rd rs1 rs2 : FReg) (s : State) : State :=
  fpEnabled bits s fun s =>
    let a := readFmt fmt rs1 s
    let b := readFmt fmt rs2 s
    writeFDirty rd (packFmt fmt (sgnj fmt (sign (fpSign fmt a) (fpSign fmt b)) a)) s

/-- Minimum and maximum (rules R684, R685). -/
def fpSelect (bits : Word) (fmt : Fmt) (isMax : Bool) (rd rs1 rs2 : FReg) (s : State) : State :=
  fpEnabled bits s fun s => writeFResult fmt rd (fpMinMax fmt isMax (readFmt fmt rs1 s) (readFmt fmt rs2 s)) s

/-- A comparison (rules R686 to R688). -/
def fpCompare (bits : Word) (fmt : Fmt) (cmp : Fmt → BitVec 64 → BitVec 64 → Bool × BitVec 5) (rd : Reg)
    (rs1 rs2 : FReg) (s : State) : State :=
  fpEnabled bits s fun s =>
    let r := cmp fmt (readFmt fmt rs1 s) (readFmt fmt rs2 s)
    writeXResult rd (boolWord r.1) r.2 s

/-- Classification (rule R689). -/
def fpClassify (bits : Word) (fmt : Fmt) (rd : Reg) (rs1 : FReg) (s : State) : State :=
  fpEnabled bits s fun s => writeX rd (fpClass fmt (readFmt fmt rs1 s)) s

end Sys2Proof.Machine
end

