-- ==== Sys2Proof/Machine/FloatD.lean ====
section
/-!
DEFINITION. Machine/FloatD.lean: double-precision floating point (48_float_d.md).
-/

namespace Sys2Proof.Machine

/-- `fld` (48_float_d.md rule R721). -/
def execFld (rd : FReg) (rs1 : Reg) (imm : BitVec 12) (s : State) : Result :=
  .next (loadF (Instr.bits (.fld rd rs1 imm)) .d rd (effAddr rs1 (sextImm imm) s) s)

/-- `fsd` (48_float_d.md rule R722). -/
def execFsd (rs1 : Reg) (rs2 : FReg) (imm : BitVec 12) (s : State) : Result :=
  .next (storeF (Instr.bits (.fsd rs1 rs2 imm)) .d rs2 (effAddr rs1 (sextImm imm) s) s)

/-- `fadd.d` (48_float_d.md rule R723). -/
def execFaddD (rd rs1 rs2 : FReg) (rm : Rm) (s : State) : Result :=
  .next (fpBinary (Instr.bits (.faddD rd rs1 rs2 rm)) .add .d rd rs1 rs2 rm s)

/-- `fsub.d` (48_float_d.md rule R724). -/
def execFsubD (rd rs1 rs2 : FReg) (rm : Rm) (s : State) : Result :=
  .next (fpBinary (Instr.bits (.fsubD rd rs1 rs2 rm)) .sub .d rd rs1 rs2 rm s)

/-- `fmul.d` (48_float_d.md rule R725). -/
def execFmulD (rd rs1 rs2 : FReg) (rm : Rm) (s : State) : Result :=
  .next (fpBinary (Instr.bits (.fmulD rd rs1 rs2 rm)) .mul .d rd rs1 rs2 rm s)

/-- `fdiv.d` (48_float_d.md rule R726). -/
def execFdivD (rd rs1 rs2 : FReg) (rm : Rm) (s : State) : Result :=
  .next (fpBinary (Instr.bits (.fdivD rd rs1 rs2 rm)) .div .d rd rs1 rs2 rm s)

/-- `fsqrt.d` (48_float_d.md rule R727). -/
def execFsqrtD (rd rs1 : FReg) (rm : Rm) (s : State) : Result :=
  .next (fpUnary (Instr.bits (.fsqrtD rd rs1 rm)) .sqrt .d rd rs1 rm s)

/-- `fmadd.d` (48_float_d.md rule R728). -/
def execFmaddD (rd rs1 rs2 rs3 : FReg) (rm : Rm) (s : State) : Result :=
  .next (fpCompute (Instr.bits (.fmaddD rd rs1 rs2 rs3 rm)) .fmadd .d rd rs1 rs2 rs3 rm s)

/-- `fmsub.d` (48_float_d.md rule R729). -/
def execFmsubD (rd rs1 rs2 rs3 : FReg) (rm : Rm) (s : State) : Result :=
  .next (fpCompute (Instr.bits (.fmsubD rd rs1 rs2 rs3 rm)) .fmsub .d rd rs1 rs2 rs3 rm s)

/-- `fnmsub.d` (48_float_d.md rule R730). -/
def execFnmsubD (rd rs1 rs2 rs3 : FReg) (rm : Rm) (s : State) : Result :=
  .next (fpCompute (Instr.bits (.fnmsubD rd rs1 rs2 rs3 rm)) .fnmsub .d rd rs1 rs2 rs3 rm s)

/-- `fnmadd.d` (48_float_d.md rule R731). -/
def execFnmaddD (rd rs1 rs2 rs3 : FReg) (rm : Rm) (s : State) : Result :=
  .next (fpCompute (Instr.bits (.fnmaddD rd rs1 rs2 rs3 rm)) .fnmadd .d rd rs1 rs2 rs3 rm s)

/-- `fsgnj.d` (48_float_d.md rule R732). -/
def execFsgnjD (rd rs1 rs2 : FReg) (s : State) : Result :=
  .next (fpSignInject (Instr.bits (.fsgnjD rd rs1 rs2)) .d (fun _ b => b) rd rs1 rs2 s)

/-- `fsgnjn.d` (48_float_d.md rule R733). -/
def execFsgnjnD (rd rs1 rs2 : FReg) (s : State) : Result :=
  .next (fpSignInject (Instr.bits (.fsgnjnD rd rs1 rs2)) .d (fun _ b => !b) rd rs1 rs2 s)

/-- `fsgnjx.d` (48_float_d.md rule R734). -/
def execFsgnjxD (rd rs1 rs2 : FReg) (s : State) : Result :=
  .next (fpSignInject (Instr.bits (.fsgnjxD rd rs1 rs2)) .d (fun a b => a != b) rd rs1 rs2 s)

/-- `fmin.d` (48_float_d.md rule R735). -/
def execFminD (rd rs1 rs2 : FReg) (s : State) : Result :=
  .next (fpSelect (Instr.bits (.fminD rd rs1 rs2)) .d false rd rs1 rs2 s)

/-- `fmax.d` (48_float_d.md rule R736). -/
def execFmaxD (rd rs1 rs2 : FReg) (s : State) : Result :=
  .next (fpSelect (Instr.bits (.fmaxD rd rs1 rs2)) .d true rd rs1 rs2 s)

/-- `feq.d` (48_float_d.md rule R737). -/
def execFeqD (rd : Reg) (rs1 rs2 : FReg) (s : State) : Result :=
  .next (fpCompare (Instr.bits (.feqD rd rs1 rs2)) .d fpFeq rd rs1 rs2 s)

/-- `flt.d` (48_float_d.md rule R738). -/
def execFltD (rd : Reg) (rs1 rs2 : FReg) (s : State) : Result :=
  .next (fpCompare (Instr.bits (.fltD rd rs1 rs2)) .d fpFlt rd rs1 rs2 s)

/-- `fle.d` (48_float_d.md rule R739). -/
def execFleD (rd : Reg) (rs1 rs2 : FReg) (s : State) : Result :=
  .next (fpCompare (Instr.bits (.fleD rd rs1 rs2)) .d fpFle rd rs1 rs2 s)

/-- `fclass.d` (48_float_d.md rule R740). -/
def execFclassD (rd : Reg) (rs1 : FReg) (s : State) : Result :=
  .next (fpClassify (Instr.bits (.fclassD rd rs1)) .d rd rs1 s)

/-- `fcvt.s.d` (48_float_d.md rule R741). -/
def execFcvtSD (rd rs1 : FReg) (rm : Rm) (s : State) : Result :=
  .next (fpConvert (Instr.bits (.fcvtSD rd rs1 rm)) .s rd rs1 rm s)

/-- `fcvt.d.s` (48_float_d.md rule R742). -/
def execFcvtDS (rd rs1 : FReg) (rm : Rm) (s : State) : Result :=
  .next (fpConvert (Instr.bits (.fcvtDS rd rs1 rm)) .d rd rs1 rm s)

/-- `fcvt.w.d` (48_float_d.md rule R743). -/
def execFcvtWD (rd : Reg) (rs1 : FReg) (rm : Rm) (s : State) : Result :=
  .next (fpToInt (Instr.bits (.fcvtWD rd rs1 rm)) .d 32 true rd rs1 rm s)

/-- `fcvt.wu.d` (48_float_d.md rule R744). -/
def execFcvtWuD (rd : Reg) (rs1 : FReg) (rm : Rm) (s : State) : Result :=
  .next (fpToInt (Instr.bits (.fcvtWuD rd rs1 rm)) .d 32 false rd rs1 rm s)

/-- `fcvt.l.d` (48_float_d.md rule R745). -/
def execFcvtLD (rd : Reg) (rs1 : FReg) (rm : Rm) (s : State) : Result :=
  .next (fpToInt (Instr.bits (.fcvtLD rd rs1 rm)) .d 64 true rd rs1 rm s)

/-- `fcvt.lu.d` (48_float_d.md rule R746). -/
def execFcvtLuD (rd : Reg) (rs1 : FReg) (rm : Rm) (s : State) : Result :=
  .next (fpToInt (Instr.bits (.fcvtLuD rd rs1 rm)) .d 64 false rd rs1 rm s)

/-- `fcvt.d.w` (48_float_d.md rule R747). -/
def execFcvtDW (rd : FReg) (rs1 : Reg) (rm : Rm) (s : State) : Result :=
  .next (fpOfInt (Instr.bits (.fcvtDW rd rs1 rm)) .d 32 true rd rs1 rm s)

/-- `fcvt.d.wu` (48_float_d.md rule R748). -/
def execFcvtDWu (rd : FReg) (rs1 : Reg) (rm : Rm) (s : State) : Result :=
  .next (fpOfInt (Instr.bits (.fcvtDWu rd rs1 rm)) .d 32 false rd rs1 rm s)

/-- `fcvt.d.l` (48_float_d.md rule R749). -/
def execFcvtDL (rd : FReg) (rs1 : Reg) (rm : Rm) (s : State) : Result :=
  .next (fpOfInt (Instr.bits (.fcvtDL rd rs1 rm)) .d 64 true rd rs1 rm s)

/-- `fcvt.d.lu` (48_float_d.md rule R750). -/
def execFcvtDLu (rd : FReg) (rs1 : Reg) (rm : Rm) (s : State) : Result :=
  .next (fpOfInt (Instr.bits (.fcvtDLu rd rs1 rm)) .d 64 false rd rs1 rm s)

/-- `fmv.x.d` (48_float_d.md rule R751). -/
def execFmvXD (rd : Reg) (rs1 : FReg) (s : State) : Result :=
  .next (fpEnabled (Instr.bits (.fmvXD rd rs1)) s fun s => writeX rd (readF rs1 s) s)

/-- `fmv.d.x` (48_float_d.md rule R752). -/
def execFmvDX (rd : FReg) (rs1 : Reg) (s : State) : Result :=
  .next (fpEnabled (Instr.bits (.fmvDX rd rs1)) s fun s => writeFDirty rd (readX rs1 s) s)

end Sys2Proof.Machine
end

