-- ==== Sys2Proof/Machine/FloatF.lean ====
section
/-!
DEFINITION. Machine/FloatF.lean: single-precision floating point (47_float_f.md).
-/

namespace Sys2Proof.Machine

/-- `flw` (47_float_f.md rule R670). -/
def execFlw (rd : FReg) (rs1 : Reg) (imm : BitVec 12) (s : State) : Result :=
  .next (loadF (Instr.bits (.flw rd rs1 imm)) .s rd (effAddr rs1 (sextImm imm) s) s)

/-- `fsw` (47_float_f.md rule R671). -/
def execFsw (rs1 : Reg) (rs2 : FReg) (imm : BitVec 12) (s : State) : Result :=
  .next (storeF (Instr.bits (.fsw rs1 rs2 imm)) .s rs2 (effAddr rs1 (sextImm imm) s) s)

/-- `fadd.s` (47_float_f.md rule R672). -/
def execFaddS (rd rs1 rs2 : FReg) (rm : Rm) (s : State) : Result :=
  .next (fpBinary (Instr.bits (.faddS rd rs1 rs2 rm)) .add .s rd rs1 rs2 rm s)

/-- `fsub.s` (47_float_f.md rule R673). -/
def execFsubS (rd rs1 rs2 : FReg) (rm : Rm) (s : State) : Result :=
  .next (fpBinary (Instr.bits (.fsubS rd rs1 rs2 rm)) .sub .s rd rs1 rs2 rm s)

/-- `fmul.s` (47_float_f.md rule R674). -/
def execFmulS (rd rs1 rs2 : FReg) (rm : Rm) (s : State) : Result :=
  .next (fpBinary (Instr.bits (.fmulS rd rs1 rs2 rm)) .mul .s rd rs1 rs2 rm s)

/-- `fdiv.s` (47_float_f.md rule R675). -/
def execFdivS (rd rs1 rs2 : FReg) (rm : Rm) (s : State) : Result :=
  .next (fpBinary (Instr.bits (.fdivS rd rs1 rs2 rm)) .div .s rd rs1 rs2 rm s)

/-- `fsqrt.s` (47_float_f.md rule R676). -/
def execFsqrtS (rd rs1 : FReg) (rm : Rm) (s : State) : Result :=
  .next (fpUnary (Instr.bits (.fsqrtS rd rs1 rm)) .sqrt .s rd rs1 rm s)

/-- `fmadd.s` (47_float_f.md rule R677). -/
def execFmaddS (rd rs1 rs2 rs3 : FReg) (rm : Rm) (s : State) : Result :=
  .next (fpCompute (Instr.bits (.fmaddS rd rs1 rs2 rs3 rm)) .fmadd .s rd rs1 rs2 rs3 rm s)

/-- `fmsub.s` (47_float_f.md rule R678). -/
def execFmsubS (rd rs1 rs2 rs3 : FReg) (rm : Rm) (s : State) : Result :=
  .next (fpCompute (Instr.bits (.fmsubS rd rs1 rs2 rs3 rm)) .fmsub .s rd rs1 rs2 rs3 rm s)

/-- `fnmsub.s` (47_float_f.md rule R679). -/
def execFnmsubS (rd rs1 rs2 rs3 : FReg) (rm : Rm) (s : State) : Result :=
  .next (fpCompute (Instr.bits (.fnmsubS rd rs1 rs2 rs3 rm)) .fnmsub .s rd rs1 rs2 rs3 rm s)

/-- `fnmadd.s` (47_float_f.md rule R680). -/
def execFnmaddS (rd rs1 rs2 rs3 : FReg) (rm : Rm) (s : State) : Result :=
  .next (fpCompute (Instr.bits (.fnmaddS rd rs1 rs2 rs3 rm)) .fnmadd .s rd rs1 rs2 rs3 rm s)

/-- `fsgnj.s` (47_float_f.md rule R681). -/
def execFsgnjS (rd rs1 rs2 : FReg) (s : State) : Result :=
  .next (fpSignInject (Instr.bits (.fsgnjS rd rs1 rs2)) .s (fun _ b => b) rd rs1 rs2 s)

/-- `fsgnjn.s` (47_float_f.md rule R682). -/
def execFsgnjnS (rd rs1 rs2 : FReg) (s : State) : Result :=
  .next (fpSignInject (Instr.bits (.fsgnjnS rd rs1 rs2)) .s (fun _ b => !b) rd rs1 rs2 s)

/-- `fsgnjx.s` (47_float_f.md rule R683). -/
def execFsgnjxS (rd rs1 rs2 : FReg) (s : State) : Result :=
  .next (fpSignInject (Instr.bits (.fsgnjxS rd rs1 rs2)) .s (fun a b => a != b) rd rs1 rs2 s)

/-- `fmin.s` (47_float_f.md rule R684). -/
def execFminS (rd rs1 rs2 : FReg) (s : State) : Result :=
  .next (fpSelect (Instr.bits (.fminS rd rs1 rs2)) .s false rd rs1 rs2 s)

/-- `fmax.s` (47_float_f.md rule R685). -/
def execFmaxS (rd rs1 rs2 : FReg) (s : State) : Result :=
  .next (fpSelect (Instr.bits (.fmaxS rd rs1 rs2)) .s true rd rs1 rs2 s)

/-- `feq.s` (47_float_f.md rule R686). -/
def execFeqS (rd : Reg) (rs1 rs2 : FReg) (s : State) : Result :=
  .next (fpCompare (Instr.bits (.feqS rd rs1 rs2)) .s fpFeq rd rs1 rs2 s)

/-- `flt.s` (47_float_f.md rule R687). -/
def execFltS (rd : Reg) (rs1 rs2 : FReg) (s : State) : Result :=
  .next (fpCompare (Instr.bits (.fltS rd rs1 rs2)) .s fpFlt rd rs1 rs2 s)

/-- `fle.s` (47_float_f.md rule R688). -/
def execFleS (rd : Reg) (rs1 rs2 : FReg) (s : State) : Result :=
  .next (fpCompare (Instr.bits (.fleS rd rs1 rs2)) .s fpFle rd rs1 rs2 s)

/-- `fclass.s` (47_float_f.md rule R689). -/
def execFclassS (rd : Reg) (rs1 : FReg) (s : State) : Result :=
  .next (fpClassify (Instr.bits (.fclassS rd rs1)) .s rd rs1 s)

/-- `fcvt.w.s` (47_float_f.md rule R690). -/
def execFcvtWS (rd : Reg) (rs1 : FReg) (rm : Rm) (s : State) : Result :=
  .next (fpToInt (Instr.bits (.fcvtWS rd rs1 rm)) .s 32 true rd rs1 rm s)

/-- `fcvt.wu.s` (47_float_f.md rule R691). -/
def execFcvtWuS (rd : Reg) (rs1 : FReg) (rm : Rm) (s : State) : Result :=
  .next (fpToInt (Instr.bits (.fcvtWuS rd rs1 rm)) .s 32 false rd rs1 rm s)

/-- `fcvt.l.s` (47_float_f.md rule R692). -/
def execFcvtLS (rd : Reg) (rs1 : FReg) (rm : Rm) (s : State) : Result :=
  .next (fpToInt (Instr.bits (.fcvtLS rd rs1 rm)) .s 64 true rd rs1 rm s)

/-- `fcvt.lu.s` (47_float_f.md rule R693). -/
def execFcvtLuS (rd : Reg) (rs1 : FReg) (rm : Rm) (s : State) : Result :=
  .next (fpToInt (Instr.bits (.fcvtLuS rd rs1 rm)) .s 64 false rd rs1 rm s)

/-- `fcvt.s.w` (47_float_f.md rule R694). -/
def execFcvtSW (rd : FReg) (rs1 : Reg) (rm : Rm) (s : State) : Result :=
  .next (fpOfInt (Instr.bits (.fcvtSW rd rs1 rm)) .s 32 true rd rs1 rm s)

/-- `fcvt.s.wu` (47_float_f.md rule R695). -/
def execFcvtSWu (rd : FReg) (rs1 : Reg) (rm : Rm) (s : State) : Result :=
  .next (fpOfInt (Instr.bits (.fcvtSWu rd rs1 rm)) .s 32 false rd rs1 rm s)

/-- `fcvt.s.l` (47_float_f.md rule R696). -/
def execFcvtSL (rd : FReg) (rs1 : Reg) (rm : Rm) (s : State) : Result :=
  .next (fpOfInt (Instr.bits (.fcvtSL rd rs1 rm)) .s 64 true rd rs1 rm s)

/-- `fcvt.s.lu` (47_float_f.md rule R697). -/
def execFcvtSLu (rd : FReg) (rs1 : Reg) (rm : Rm) (s : State) : Result :=
  .next (fpOfInt (Instr.bits (.fcvtSLu rd rs1 rm)) .s 64 false rd rs1 rm s)

/-- `fmv.x.w` (47_float_f.md rule R698). -/
def execFmvXW (rd : Reg) (rs1 : FReg) (s : State) : Result :=
  .next (fpEnabled (Instr.bits (.fmvXW rd rs1)) s fun s => writeX rd (sext32 (readF rs1 s)) s)

/-- `fmv.w.x` (47_float_f.md rule R699). -/
def execFmvWX (rd : FReg) (rs1 : Reg) (s : State) : Result :=
  .next (fpEnabled (Instr.bits (.fmvWX rd rs1)) s fun s => writeFDirty rd (box ((readX rs1 s).setWidth 32)) s)

end Sys2Proof.Machine
end

