-- ==== Sys2Proof/Machine/Integer.lean ====
section
/-!
DEFINITION. Machine/Integer.lean: the integer computational instructions (41_integer.md).
-/

namespace Sys2Proof.Machine

/-- `lui` (41_integer.md rule R451). -/
def execLui (rd : Reg) (imm : BitVec 20) (s : State) : Result := .next (writeX rd (upperImm imm) s)

/-- `auipc` (41_integer.md rule R452). -/
def execAuipc (rd : Reg) (imm : BitVec 20) (s : State) : Result := .next (writeX rd (s.pc + upperImm imm) s)

/-- `addi` (41_integer.md rule R453). -/
def execAddi (rd rs1 : Reg) (imm : BitVec 12) (s : State) : Result := .next (writeX rd (readX rs1 s + sextImm imm) s)

/-- `slti` (41_integer.md rule R454). -/
def execSlti (rd rs1 : Reg) (imm : BitVec 12) (s : State) : Result :=
  .next (writeX rd (boolWord (ltS s.cfg.xlen (readX rs1 s) (sextImm imm))) s)

/-- `sltiu` (41_integer.md rule R455). -/
def execSltiu (rd rs1 : Reg) (imm : BitVec 12) (s : State) : Result :=
  .next (writeX rd (boolWord (ltU (readX rs1 s) (norm s.cfg.xlen (sextImm imm)))) s)

/-- `xori` (41_integer.md rule R456). -/
def execXori (rd rs1 : Reg) (imm : BitVec 12) (s : State) : Result :=
  .next (writeX rd (readX rs1 s ^^^ sextImm imm) s)

/-- `ori` (41_integer.md rule R457). -/
def execOri (rd rs1 : Reg) (imm : BitVec 12) (s : State) : Result := .next (writeX rd (readX rs1 s ||| sextImm imm) s)

/-- `andi` (41_integer.md rule R458). -/
def execAndi (rd rs1 : Reg) (imm : BitVec 12) (s : State) : Result :=
  .next (writeX rd (readX rs1 s &&& sextImm imm) s)

/-- `slli` (41_integer.md rule R459). -/
def execSlli (rd rs1 : Reg) (shamt : BitVec 6) (s : State) : Result :=
  .next (writeX rd (readX rs1 s <<< shamt.toNat) s)

/-- `srli` (41_integer.md rule R460). -/
def execSrli (rd rs1 : Reg) (shamt : BitVec 6) (s : State) : Result :=
  .next (writeX rd (readX rs1 s >>> shamt.toNat) s)

/-- `srai` (41_integer.md rule R461). -/
def execSrai (rd rs1 : Reg) (shamt : BitVec 6) (s : State) : Result :=
  .next (writeX rd ((sx s.cfg.xlen (readX rs1 s)).sshiftRight shamt.toNat) s)

/-- `add` (41_integer.md rule R462). -/
def execAdd (rd rs1 rs2 : Reg) (s : State) : Result := .next (writeX rd (readX rs1 s + readX rs2 s) s)

/-- `sub` (41_integer.md rule R463). -/
def execSub (rd rs1 rs2 : Reg) (s : State) : Result := .next (writeX rd (readX rs1 s - readX rs2 s) s)

/-- `sll` (41_integer.md rule R464). -/
def execSll (rd rs1 rs2 : Reg) (s : State) : Result := .next (writeX rd (readX rs1 s <<< shiftReg rs2 s) s)

/-- `slt` (41_integer.md rule R465). -/
def execSlt (rd rs1 rs2 : Reg) (s : State) : Result :=
  .next (writeX rd (boolWord (ltS s.cfg.xlen (readX rs1 s) (readX rs2 s))) s)

/-- `sltu` (41_integer.md rule R466). -/
def execSltu (rd rs1 rs2 : Reg) (s : State) : Result :=
  .next (writeX rd (boolWord (ltU (readX rs1 s) (readX rs2 s))) s)

/-- `xor` (41_integer.md rule R467). -/
def execXor (rd rs1 rs2 : Reg) (s : State) : Result := .next (writeX rd (readX rs1 s ^^^ readX rs2 s) s)

/-- `srl` (41_integer.md rule R468). -/
def execSrl (rd rs1 rs2 : Reg) (s : State) : Result := .next (writeX rd (readX rs1 s >>> shiftReg rs2 s) s)

/-- `sra` (41_integer.md rule R469). -/
def execSra (rd rs1 rs2 : Reg) (s : State) : Result :=
  .next (writeX rd ((sx s.cfg.xlen (readX rs1 s)).sshiftRight (shiftReg rs2 s)) s)

/-- `or` (41_integer.md rule R470). -/
def execOr (rd rs1 rs2 : Reg) (s : State) : Result := .next (writeX rd (readX rs1 s ||| readX rs2 s) s)

/-- `and` (41_integer.md rule R471). -/
def execAnd (rd rs1 rs2 : Reg) (s : State) : Result := .next (writeX rd (readX rs1 s &&& readX rs2 s) s)

/-- `addiw` (41_integer.md rule R472). -/
def execAddiw (rd rs1 : Reg) (imm : BitVec 12) (s : State) : Result :=
  .next (writeX rd (sext32 (readX rs1 s + sextImm imm)) s)

/-- `slliw` (41_integer.md rule R473). -/
def execSlliw (rd rs1 : Reg) (shamt : BitVec 5) (s : State) : Result :=
  .next (writeX rd (sext32 (readX rs1 s <<< shamt.toNat)) s)

/-- `srliw` (41_integer.md rule R474). -/
def execSrliw (rd rs1 : Reg) (shamt : BitVec 5) (s : State) : Result :=
  .next (writeX rd (sext32 (truncBytes 4 (readX rs1 s) >>> shamt.toNat)) s)

/-- `sraiw` (41_integer.md rule R475). -/
def execSraiw (rd rs1 : Reg) (shamt : BitVec 5) (s : State) : Result :=
  .next (writeX rd ((sext32 (readX rs1 s)).sshiftRight shamt.toNat) s)

/-- `addw` (41_integer.md rule R476). -/
def execAddw (rd rs1 rs2 : Reg) (s : State) : Result := .next (writeX rd (sext32 (readX rs1 s + readX rs2 s)) s)

/-- `subw` (41_integer.md rule R477). -/
def execSubw (rd rs1 rs2 : Reg) (s : State) : Result := .next (writeX rd (sext32 (readX rs1 s - readX rs2 s)) s)

/-- `sllw` (41_integer.md rule R478). -/
def execSllw (rd rs1 rs2 : Reg) (s : State) : Result := .next (writeX rd (sext32 (readX rs1 s <<< shiftRegW rs2 s)) s)

/-- `srlw` (41_integer.md rule R479). -/
def execSrlw (rd rs1 rs2 : Reg) (s : State) : Result :=
  .next (writeX rd (sext32 (truncBytes 4 (readX rs1 s) >>> shiftRegW rs2 s)) s)

/-- `sraw` (41_integer.md rule R480). -/
def execSraw (rd rs1 rs2 : Reg) (s : State) : Result :=
  .next (writeX rd ((sext32 (readX rs1 s)).sshiftRight (shiftRegW rs2 s)) s)

end Sys2Proof.Machine
end

