-- ==== Sys2Proof/Machine/LoadStore.lean ====
section
/-!
DEFINITION. Machine/LoadStore.lean: the integer loads and stores (43_loadstore.md).
-/

namespace Sys2Proof.Machine

/-- `lb` (43_loadstore.md rule R523). -/
def execLb (rd rs1 : Reg) (imm : BitVec 12) (s : State) : Result :=
  .next (loadX rd (effAddr rs1 (sextImm imm) s) 1 .signed s)

/-- `lh` (43_loadstore.md rule R524). -/
def execLh (rd rs1 : Reg) (imm : BitVec 12) (s : State) : Result :=
  .next (loadX rd (effAddr rs1 (sextImm imm) s) 2 .signed s)

/-- `lw` (43_loadstore.md rule R525). -/
def execLw (rd rs1 : Reg) (imm : BitVec 12) (s : State) : Result :=
  .next (loadX rd (effAddr rs1 (sextImm imm) s) 4 .signed s)

/-- `lbu` (43_loadstore.md rule R526). -/
def execLbu (rd rs1 : Reg) (imm : BitVec 12) (s : State) : Result :=
  .next (loadX rd (effAddr rs1 (sextImm imm) s) 1 .unsigned s)

/-- `lhu` (43_loadstore.md rule R527). -/
def execLhu (rd rs1 : Reg) (imm : BitVec 12) (s : State) : Result :=
  .next (loadX rd (effAddr rs1 (sextImm imm) s) 2 .unsigned s)

/-- `lwu` (43_loadstore.md rule R528). -/
def execLwu (rd rs1 : Reg) (imm : BitVec 12) (s : State) : Result :=
  .next (loadX rd (effAddr rs1 (sextImm imm) s) 4 .unsigned s)

/-- `ld` (43_loadstore.md rule R529). -/
def execLd (rd rs1 : Reg) (imm : BitVec 12) (s : State) : Result :=
  .next (loadX rd (effAddr rs1 (sextImm imm) s) 8 .unsigned s)

/-- `sb` (43_loadstore.md rule R530). -/
def execSb (rs1 rs2 : Reg) (imm : BitVec 12) (s : State) : Result :=
  .next (storeBytes (effAddr rs1 (sextImm imm) s) 1 (readX rs2 s) s)

/-- `sh` (43_loadstore.md rule R531). -/
def execSh (rs1 rs2 : Reg) (imm : BitVec 12) (s : State) : Result :=
  .next (storeBytes (effAddr rs1 (sextImm imm) s) 2 (readX rs2 s) s)

/-- `sw` (43_loadstore.md rule R532). -/
def execSw (rs1 rs2 : Reg) (imm : BitVec 12) (s : State) : Result :=
  .next (storeBytes (effAddr rs1 (sextImm imm) s) 4 (readX rs2 s) s)

/-- `sd` (43_loadstore.md rule R533). -/
def execSd (rs1 rs2 : Reg) (imm : BitVec 12) (s : State) : Result :=
  .next (storeBytes (effAddr rs1 (sextImm imm) s) 8 (readX rs2 s) s)

end Sys2Proof.Machine
end

