-- ==== Sys2Proof/Machine/MulDiv.lean ====
section
/-!
DEFINITION. Machine/MulDiv.lean: multiplication and division (45_muldiv.md).
-/

namespace Sys2Proof.Machine

/-- `s(x[r])` (00_scope.md rule R11). -/
def signedX (r : Reg) (s : State) : Int := (sx s.cfg.xlen (readX r s)).toInt

/-- `u(x[r])` as an integer. -/
def unsignedX (r : Reg) (s : State) : Int := (readX r s).toNat

/-- `x[r][31:0]` as a signed integer. -/
def signedW (r : Reg) (s : State) : Int := (sext32 (readX r s)).toInt

/-- `x[r][31:0]` as an unsigned integer. -/
def unsignedW (r : Reg) (s : State) : Nat := (readX r s).toNat % 2 ^ 32

/-- Bits 2*XLEN-1 to XLEN of an exact product (rules R592 to R594). -/
def highProduct (s : State) (p : Int) : Word := BitVec.ofInt 64 (p / 2 ^ s.cfg.xlen.bits)

/-- Signed division in `w` bits (rule R595). -/
def divS (w : Nat) (a b : Int) : Int :=
  if b = 0 then -1 else if a = -(2 ^ (w - 1)) ∧ b = -1 then a else a.tdiv b

/-- Unsigned division in `w` bits (rule R596). -/
def divU (w a b : Nat) : Nat := if b = 0 then 2 ^ w - 1 else a / b

/-- Signed remainder in `w` bits (rule R597). -/
def remS (w : Nat) (a b : Int) : Int :=
  if b = 0 then a else if a = -(2 ^ (w - 1)) ∧ b = -1 then 0 else a - b * a.tdiv b

/-- Unsigned remainder (rule R598). -/
def remU (a b : Nat) : Nat := if b = 0 then a else a % b

/-- `mul` (45_muldiv.md rule R591). -/
def execMul (rd rs1 rs2 : Reg) (s : State) : Result := .next (writeX rd (readX rs1 s * readX rs2 s) s)

/-- `mulh` (45_muldiv.md rule R592). -/
def execMulh (rd rs1 rs2 : Reg) (s : State) : Result :=
  .next (writeX rd (highProduct s (signedX rs1 s * signedX rs2 s)) s)

/-- `mulhsu` (45_muldiv.md rule R593). -/
def execMulhsu (rd rs1 rs2 : Reg) (s : State) : Result :=
  .next (writeX rd (highProduct s (signedX rs1 s * unsignedX rs2 s)) s)

/-- `mulhu` (45_muldiv.md rule R594). -/
def execMulhu (rd rs1 rs2 : Reg) (s : State) : Result :=
  .next (writeX rd (highProduct s (unsignedX rs1 s * unsignedX rs2 s)) s)

/-- `div` (45_muldiv.md rule R595). -/
def execDiv (rd rs1 rs2 : Reg) (s : State) : Result :=
  .next (writeX rd (BitVec.ofInt 64 (divS s.cfg.xlen.bits (signedX rs1 s) (signedX rs2 s))) s)

/-- `divu` (45_muldiv.md rule R596). -/
def execDivu (rd rs1 rs2 : Reg) (s : State) : Result :=
  .next (writeX rd (BitVec.ofNat 64 (divU s.cfg.xlen.bits (readX rs1 s).toNat (readX rs2 s).toNat)) s)

/-- `rem` (45_muldiv.md rule R597). -/
def execRem (rd rs1 rs2 : Reg) (s : State) : Result :=
  .next (writeX rd (BitVec.ofInt 64 (remS s.cfg.xlen.bits (signedX rs1 s) (signedX rs2 s))) s)

/-- `remu` (45_muldiv.md rule R598). -/
def execRemu (rd rs1 rs2 : Reg) (s : State) : Result :=
  .next (writeX rd (BitVec.ofNat 64 (remU (readX rs1 s).toNat (readX rs2 s).toNat)) s)

/-- `mulw` (45_muldiv.md rule R599). -/
def execMulw (rd rs1 rs2 : Reg) (s : State) : Result := .next (writeX rd (sext32 (readX rs1 s * readX rs2 s)) s)

/-- `divw` (45_muldiv.md rule R600). -/
def execDivw (rd rs1 rs2 : Reg) (s : State) : Result :=
  .next (writeX rd (BitVec.ofInt 64 (divS 32 (signedW rs1 s) (signedW rs2 s))) s)

/-- `divuw` (45_muldiv.md rule R601). -/
def execDivuw (rd rs1 rs2 : Reg) (s : State) : Result :=
  .next (writeX rd (sext32 (BitVec.ofNat 64 (divU 32 (unsignedW rs1 s) (unsignedW rs2 s)))) s)

/-- `remw` (45_muldiv.md rule R602). -/
def execRemw (rd rs1 rs2 : Reg) (s : State) : Result :=
  .next (writeX rd (BitVec.ofInt 64 (remS 32 (signedW rs1 s) (signedW rs2 s))) s)

/-- `remuw` (45_muldiv.md rule R603). -/
def execRemuw (rd rs1 rs2 : Reg) (s : State) : Result :=
  .next (writeX rd (sext32 (BitVec.ofNat 64 (remU (unsignedW rs1 s) (unsignedW rs2 s)))) s)

end Sys2Proof.Machine
end

