-- ==== Sys2Proof/Machine/Csr.lean ====
section
/-!
DEFINITION. Machine/Csr.lean: the CSR file (10_state.md rules R60 to R107): the address map, the read-hooks, the
write-hooks with their post-write callbacks, and the checks and operation of the six CSR instructions
(44_system.md rules R570 to R572).
-/

namespace Sys2Proof.Machine

/-- Every CSR of the hart (10_state.md rule R66). -/
inductive Csr where
  | fflags | frm | fcsr
  | cycle | time | instret | cycleh | timeh | instreth
  | sstatus | sie | stvec | scounteren | sscratch | sepc | scause | stval | sip | stimecmp | stimecmph | satp
  | mstatus | misa | medeleg | mideleg | mie | mtvec | mcounteren | mstatush | medelegh
  | mscratch | mepc | mcause | mtval | mip
  | pmpcfg (i : BitVec 4) | pmpaddr (i : BitVec 6)
  | mcycle | minstret | mcycleh | minstreth
  | mvendorid | marchid | mimpid | mhartid | mconfigptr
deriving DecidableEq, Repr

/-- A CSR that exists with XLEN = 32 only. -/
def Csr.on32 (xl : Xlen) (c : Csr) : Option Csr :=
  match xl with
  | .rv32 => some c
  | .rv64 => none

/-- The PMP rows of the address map: `pmpcfg` with an odd number exists with XLEN = 32 only (rules R66, R86). -/
def Csr.ofPmpAddr (xl : Xlen) (a : CsrAddr) : Option Csr :=
  if 0x3A0#12 ≤ a ∧ a ≤ 0x3AF#12 then
    if a.getLsbD 0 then Csr.on32 xl (.pmpcfg (a.setWidth 4)) else some (.pmpcfg (a.setWidth 4))
  else if 0x3B0#12 ≤ a ∧ a ≤ 0x3EF#12 then some (.pmpaddr ((a - 0x3B0#12).setWidth 6))
  else none

/-- The address map (rule R66); none is an absent address (rules R65, R67). -/
def Csr.ofAddr (xl : Xlen) (a : CsrAddr) : Option Csr :=
  match a with
  | 0x001#12 => some .fflags
  | 0x002#12 => some .frm
  | 0x003#12 => some .fcsr
  | 0xC00#12 => some .cycle
  | 0xC01#12 => some .time
  | 0xC02#12 => some .instret
  | 0xC80#12 => Csr.on32 xl .cycleh
  | 0xC81#12 => Csr.on32 xl .timeh
  | 0xC82#12 => Csr.on32 xl .instreth
  | 0x100#12 => some .sstatus
  | 0x104#12 => some .sie
  | 0x105#12 => some .stvec
  | 0x106#12 => some .scounteren
  | 0x140#12 => some .sscratch
  | 0x141#12 => some .sepc
  | 0x142#12 => some .scause
  | 0x143#12 => some .stval
  | 0x144#12 => some .sip
  | 0x14D#12 => some .stimecmp
  | 0x15D#12 => Csr.on32 xl .stimecmph
  | 0x180#12 => some .satp
  | 0x300#12 => some .mstatus
  | 0x301#12 => some .misa
  | 0x302#12 => some .medeleg
  | 0x303#12 => some .mideleg
  | 0x304#12 => some .mie
  | 0x305#12 => some .mtvec
  | 0x306#12 => some .mcounteren
  | 0x310#12 => Csr.on32 xl .mstatush
  | 0x312#12 => Csr.on32 xl .medelegh
  | 0x340#12 => some .mscratch
  | 0x341#12 => some .mepc
  | 0x342#12 => some .mcause
  | 0x343#12 => some .mtval
  | 0x344#12 => some .mip
  | 0xB00#12 => some .mcycle
  | 0xB02#12 => some .minstret
  | 0xB80#12 => Csr.on32 xl .mcycleh
  | 0xB82#12 => Csr.on32 xl .minstreth
  | 0xF11#12 => some .mvendorid
  | 0xF12#12 => some .marchid
  | 0xF13#12 => some .mimpid
  | 0xF14#12 => some .mhartid
  | 0xF15#12 => some .mconfigptr
  | _ => Csr.ofPmpAddr xl a

/-! ### Masks -/

/-- `WMASK` of `mstatus` (rule R71). -/
def mstatusWmask : Word := 0x000E79AA
/-- `SSTATUS_WMASK` (rule R90). -/
def sstatusWmask : Word := 0x000C6122
/-- `SSTATUS_RMASK` (rule R90). -/
def sstatusRmask : Xlen → Word
  | .rv32 => 0x800C6122
  | .rv64 => 0x80000003000C6122
/-- The bits of `mie` (rule R75). -/
def mieMask : Word := 0xAAA
/-- The supervisor interrupt bits (rules R74, R91, R92). -/
def supervisorMask : Word := 0x222
/-- The bits of `mip` that CSR writes reach (rule R76). -/
def mipWmask : Word := 0x202
/-- The bits of `sip` that CSR writes reach (rule R92). -/
def sipWmask : Word := 0x002
/-- The writable bits of `medeleg` (rule R73). -/
def medelegMask : Word := 0xB3FF
/-- The writable bits of `mcounteren` and `scounteren` (rules R78, R94). -/
def counterenMask : Word := 0x7
/-- The writable bits of one `pmpcfg` byte (rule R86). -/
def pmpcfgMask : BitVec 8 := 0x9F
/-- The writable bits of a `pmpaddr` (rule R87). -/
def pmpaddrMask : Xlen → Word
  | .rv32 => 0xFFFFFFFF
  | .rv64 => 0x003FFFFFFFFFFFFF

/-! ### Write-hooks -/

/-- The write-hook of `mstatus` (rule R71). -/
def mstatusHook (xl : Xlen) (old v : Word) : Word :=
  let m := mergeMask mstatusWmask old v
  let m := if v.extractLsb' 11 2 = 2#2 then setField m 11 2 ((old.extractLsb' 11 2).setWidth 64) else m
  let m := withSD xl m
  match xl with
  | .rv32 => m
  | .rv64 => setField m 32 4 0b1010

/-- The write-hook of `misa` (rule R72). -/
def misaHook (old v : Word) : Word :=
  let m := mergeMask 0x03FFFFFF old v
  let m := setBit m 4 (!bit m 8)
  if bit m 5 then m else setBit m 3 false

/-- The write-hook of `mtvec` and `stvec` (rules R77, R93). -/
def tvecHook (v : Word) : Word := v &&& ~~~2#64

/-- The write-hook of `satp` (rule R99): an unsupported MODE becomes Bare, the PPN is kept. -/
def satpHook (xl : Xlen) (v : Word) : Word :=
  match xl with
  | .rv32 => setField v 22 9 0
  | .rv64 =>
    let v := setField v 44 16 0
    let mode := v.extractLsb' 60 4
    if mode = 0#4 ∨ mode = 8#4 ∨ mode = 9#4 ∨ mode = 10#4 then v else setField v 60 4 0

/-- The callback of `stimecmp` (rule R100): compare at once, or register the deadline. -/
def stimecmpCallback (s : State) : State :=
  if s.stimecmp ≤ s.uptime then { s with mip := setBit s.mip 5 true }
  else { s with mip := setBit s.mip 5 false, timerDeadline := some s.stimecmp }

/-! ### `pmpcfg` registers as groups of bytes (rule R86) -/

/-- How many entries one `pmpcfg` register holds. -/
def pmpPerReg : Xlen → Nat
  | .rv32 => 4
  | .rv64 => 8

/-- The bytes of a `pmpcfg` register from the first entry's number on, that entry in the low bits. -/
def pmpcfgBytes (cfg : Vector (BitVec 8) 64) (first : Nat) : (n : Nat) → Word
  | 0 => 0
  | n + 1 => (pmpcfgBytes cfg (first + 1) n <<< 8) ||| (cfg.getD first 0).setWidth 64

/-- Store the bytes of a value into entries, each masked. -/
def setPmpcfgBytes (cfg : Vector (BitVec 8) 64) (first : Nat) : (n : Nat) → Word → Vector (BitVec 8) 64
  | 0, _ => cfg
  | n + 1, v => setPmpcfgBytes (cfg.setIfInBounds first (v.setWidth 8 &&& pmpcfgMask)) (first + 1) n (v >>> 8)

/-- A `pmpcfg` register's first entry: `pmpcfgN` begins at entry 4N in both builds. -/
def pmpFirst (i : BitVec 4) : Nat := 4 * i.toNat

/-! ### `csr_read` and `csr_write` -/

/-- One XLEN-wide half of a 64-bit counter: the whole of it with XLEN = 64. -/
def lowHalf (xl : Xlen) (v : BitVec 64) : Word := norm xl v

/-- The high half of a 64-bit counter, with XLEN = 32. -/
def highHalf (v : BitVec 64) : Word := v >>> 32

/-- A 64-bit counter after a write of its low half, or of all of it with XLEN = 64. -/
def setLow (xl : Xlen) (old v : BitVec 64) : BitVec 64 :=
  match xl with
  | .rv32 => setField old 0 32 v
  | .rv64 => v

/-- A 64-bit counter after a write of its high half. -/
def setHigh (old v : BitVec 64) : BitVec 64 := setField old 32 32 v

/-- `csr_read` of a register that exists (rule R61). -/
def csrRead (c : Csr) (s : State) : Word :=
  match c with
  | .fflags => (s.fcsr.extractLsb' 0 5).setWidth 64
  | .frm => (s.fcsr.extractLsb' 5 3).setWidth 64
  | .fcsr => s.fcsr.setWidth 64
  | .cycle | .mcycle => lowHalf s.cfg.xlen s.mcycle
  | .instret | .minstret => lowHalf s.cfg.xlen s.minstret
  | .time => lowHalf s.cfg.xlen s.uptime
  | .cycleh | .mcycleh => highHalf s.mcycle
  | .instreth | .minstreth => highHalf s.minstret
  | .timeh => highHalf s.uptime
  | .sstatus => s.mstatus &&& sstatusRmask s.cfg.xlen
  | .sie => s.mie &&& supervisorMask
  | .sip => s.mip &&& supervisorMask
  | .stvec => s.stvec
  | .scounteren => s.scounteren
  | .sscratch => s.sscratch
  | .sepc => s.sepc
  | .scause => s.scause
  | .stval => s.stval
  | .stimecmp => lowHalf s.cfg.xlen s.stimecmp
  | .stimecmph => highHalf s.stimecmp
  | .satp => s.satp
  | .mstatus => s.mstatus
  | .misa => s.misa
  | .medeleg => s.medeleg
  | .medelegh => s.medelegh
  | .mideleg => s.mideleg
  | .mie => s.mie
  | .mip => s.mip
  | .mtvec => s.mtvec
  | .mcounteren => s.mcounteren
  | .mstatush => 0
  | .mscratch => s.mscratch
  | .mepc => s.mepc
  | .mcause => s.mcause
  | .mtval => s.mtval
  | .pmpcfg i => pmpcfgBytes s.pmpcfg (pmpFirst i) (pmpPerReg s.cfg.xlen)
  | .pmpaddr i => s.pmpaddr[i.toNat]'i.isLt
  | .mhartid => BitVec.ofNat 64 s.cfg.hartId
  | .mvendorid | .marchid | .mimpid | .mconfigptr => 0

/-- `csr_write` of a register that exists and is not read-only (rule R62): the hook, the commit, the callback. The
read-only registers are never written (rule R63). -/
def csrWrite (c : Csr) (v : Word) (s : State) : State :=
  match c with
  | .fflags => dirtyFS { s with fcsr := s.fcsr.extractLsb' 5 3 ++ v.extractLsb' 0 5 }
  | .frm => dirtyFS { s with fcsr := v.extractLsb' 0 3 ++ s.fcsr.extractLsb' 0 5 }
  | .fcsr => dirtyFS { s with fcsr := v.setWidth 8 }
  | .sstatus => { s with mstatus := mstatusHook s.cfg.xlen s.mstatus (mergeMask sstatusWmask s.mstatus v) }
  | .sie => { s with mie := mergeMask supervisorMask s.mie v }
  | .sip => { s with mip := mergeMask sipWmask s.mip v }
  | .stvec => { s with stvec := tvecHook v }
  | .scounteren => { s with scounteren := v &&& counterenMask }
  | .sscratch => { s with sscratch := v }
  | .sepc => { s with sepc := v }
  | .scause => { s with scause := v }
  | .stval => { s with stval := v }
  | .stimecmp => stimecmpCallback { s with stimecmp := setLow s.cfg.xlen s.stimecmp v }
  | .stimecmph => stimecmpCallback { s with stimecmp := setHigh s.stimecmp v }
  | .satp => { s with satp := satpHook s.cfg.xlen v }
  | .mstatus => { s with mstatus := mstatusHook s.cfg.xlen s.mstatus v }
  | .misa => { s with misa := misaHook s.misa v }
  | .medeleg => { s with medeleg := v &&& medelegMask }
  | .medelegh => { s with medelegh := v }
  | .mideleg => { s with mideleg := v &&& supervisorMask }
  | .mie => { s with mie := v &&& mieMask }
  | .mip => { s with mip := mergeMask mipWmask s.mip v }
  | .mtvec => { s with mtvec := tvecHook v }
  | .mcounteren => { s with mcounteren := v &&& counterenMask }
  | .mstatush => s
  | .mscratch => { s with mscratch := v }
  | .mepc => { s with mepc := v }
  | .mcause => { s with mcause := v }
  | .mtval => { s with mtval := v }
  | .pmpcfg i => { s with pmpcfg := setPmpcfgBytes s.pmpcfg (pmpFirst i) (pmpPerReg s.cfg.xlen) v }
  | .pmpaddr i => { s with pmpaddr := s.pmpaddr.set i.toNat (v &&& pmpaddrMask s.cfg.xlen) i.isLt }
  | .mcycle => { s with mcycle := setLow s.cfg.xlen s.mcycle v, wroteMcycle := true }
  | .mcycleh => { s with mcycle := setHigh s.mcycle v, wroteMcycle := true }
  | .minstret => { s with minstret := setLow s.cfg.xlen s.minstret v, wroteMinstret := true }
  | .minstreth => { s with minstret := setHigh s.minstret v, wroteMinstret := true }
  | .cycle | .time | .instret | .cycleh | .timeh | .instreth => s
  | .mvendorid | .marchid | .mimpid | .mhartid | .mconfigptr => s

/-! ### The CSR instructions (44_system.md rule R570) -/

/-- Bits 9:8 of an address: the lowest privilege that may use it (10_state.md rule R64). -/
def csrMinLevel (a : CsrAddr) : Nat := (a.extractLsb' 8 2).toNat

/-- Bits 11:10 of an address are ones: read-only (10_state.md rule R63). -/
def csrReadOnly (a : CsrAddr) : Bool := a.extractLsb' 10 2 == 3#2

/-- The counter a gated address names (44_system.md rule R571). -/
def gatedCounter : Csr → Option Nat
  | .cycle | .cycleh => some 0
  | .time | .timeh => some 1
  | .instret | .instreth => some 2
  | _ => none

/-- Counter-enable gating lets the access through (44_system.md rule R571). -/
def counterAllowed (c : Csr) (s : State) : Bool :=
  match gatedCounter c with
  | none => true
  | some i =>
    match s.priv with
    | .machine => true
    | .supervisor => bit s.mcounteren i
    | .user => bit s.mcounteren i && bit s.scounteren i

/-- One of the three floating-point CSRs (44_system.md rule R572). -/
def isFpCsr (c : Csr) : Bool := c == .fflags || c == .frm || c == .fcsr

/-- Checks 2 to 5 of rule R570. -/
def csrAllowed (a : CsrAddr) (c : Csr) (writes : Bool) (s : State) : Bool :=
  decide (csrMinLevel a ≤ s.priv.level) && !(writes && csrReadOnly a) && counterAllowed c s
    && !(isFpCsr c && mstatusFS s == 0#2)

/-- The operation of the six CSR instructions (rule R570): `new` gives the value to write from the old one. -/
def csrOp (bits : Word) (rd : Reg) (a : CsrAddr) (writes : Bool) (new : Word → Word) (s : State) : State :=
  match Csr.ofAddr s.cfg.xlen a with
  | none => illegal bits s
  | some c =>
    if csrAllowed a c writes s then
      let old := csrRead c s
      writeX rd old (if writes then csrWrite c (norm s.cfg.xlen (new old)) s else s)
    else illegal bits s

end Sys2Proof.Machine
end

