-- ==== Sys2Proof/Machine/System.lean ====
section
/-!
DEFINITION. Machine/System.lean: fences, environment calls, trap returns and the CSR instructions (44_system.md).
-/

namespace Sys2Proof.Machine

/-- `fence` (44_system.md rule R550). -/
def execFence (_fm _pred _succ : BitVec 4) (_rs1 _rd : Reg) (s : State) : Result := .next s

/-- `fence.i` (44_system.md rule R551). -/
def execFenceI (_imm : BitVec 12) (_rs1 _rd : Reg) (s : State) : Result := .next (flushIcache s)

/-- `ecall` (44_system.md rule R552). -/
def execEcall (s : State) : Result := .next (deliver ⟨ecallCause s.priv, 0⟩ s)

/-- `ebreak` (44_system.md rule R553). -/
def execEbreak (s : State) : Result := .next (breakOrHalt s)

/-- `sret` (44_system.md rule R556). -/
def execSret (s : State) : Result := .next (if s.priv = .user then illegal (Instr.bits .sret) s else returnS s)

/-- `mret` (44_system.md rule R555). -/
def execMret (s : State) : Result := .next (if s.priv = .machine then returnM s else illegal (Instr.bits .mret) s)

/-- `wfi` (44_system.md rule R558). -/
def execWfi (s : State) : Result := .next s

/-- `sfence.vma` (44_system.md rule R559). -/
def execSfenceVma (rs1 rs2 : Reg) (s : State) : Result :=
  .next (if s.priv = .user then illegal (Instr.bits (.sfenceVma rs1 rs2)) s else flushIcache s)

/-- `csrrw` (44_system.md rule R573). -/
def execCsrrw (rd rs1 : Reg) (csr : CsrAddr) (s : State) : Result :=
  .next (csrOp (Instr.bits (.csrrw rd rs1 csr)) rd csr true (fun _ => readX rs1 s) s)

/-- `csrrs` (44_system.md rule R574). -/
def execCsrrs (rd rs1 : Reg) (csr : CsrAddr) (s : State) : Result :=
  .next (csrOp (Instr.bits (.csrrs rd rs1 csr)) rd csr (rs1 != 0) (fun old => old ||| readX rs1 s) s)

/-- `csrrc` (44_system.md rule R575). -/
def execCsrrc (rd rs1 : Reg) (csr : CsrAddr) (s : State) : Result :=
  .next (csrOp (Instr.bits (.csrrc rd rs1 csr)) rd csr (rs1 != 0) (fun old => old &&& ~~~(readX rs1 s)) s)

/-- `csrrwi` (44_system.md rule R576). -/
def execCsrrwi (rd : Reg) (uimm : BitVec 5) (csr : CsrAddr) (s : State) : Result :=
  .next (csrOp (Instr.bits (.csrrwi rd uimm csr)) rd csr true (fun _ => uimm.setWidth 64) s)

/-- `csrrsi` (44_system.md rule R577). -/
def execCsrrsi (rd : Reg) (uimm : BitVec 5) (csr : CsrAddr) (s : State) : Result :=
  .next (csrOp (Instr.bits (.csrrsi rd uimm csr)) rd csr (uimm != 0) (fun old => old ||| uimm.setWidth 64) s)

/-- `csrrci` (44_system.md rule R578). -/
def execCsrrci (rd : Reg) (uimm : BitVec 5) (csr : CsrAddr) (s : State) : Result :=
  .next (csrOp (Instr.bits (.csrrci rd uimm csr)) rd csr (uimm != 0) (fun old => old &&& ~~~(uimm.setWidth 64)) s)

end Sys2Proof.Machine
end

