-- ==== Sys2Proof/Machine/Env.lean ====
section
/-!
DEFINITION. Machine/Env.lean: what happens to the hart between two steps: the draws of a step and their effects
(40_step.md rule R435, 60_exceptions.md rules R905, R906, 46_atomics.md rule R622).
-/

namespace Sys2Proof.Machine

/-- The draws of a step that `env` does not give: no line moves and no other agent stores; every open choice is a free
value (log entry 5). -/
def freeInput (s : State) : StepInput where
  lines := []
  busWrites := []
  lateLines := []
  lateWrites := []
  dropResv := (s.resv.map (·.1)).filter (Config.dropsReservation s.draws)
  useIcache := Config.icacheUse s.draws
  fillAfterTrap := Config.fillAfterTrap s.draws
  advance := Config.uptimeAdvance s.draws
  timerWaits := Config.timerWaits s.draws

/-- The draws of the coming step. -/
def nextInput (s : State) : StepInput :=
  match s.env with
  | i :: _ => i
  | [] => freeInput s

/-- One set or clear call: "it never changes anything but that one bit" (60_exceptions.md rule R905). -/
def applyLine (l : Irq × Bool) (s : State) : State := { s with mip := setBit s.mip l.1.code l.2 }

/-- One byte another agent stores, where a memory region holds it (20_memory.md rule R206). -/
def applyBusWrite (c : Host.Cell) (s : State) : State :=
  match regionOf s.cfg.bus c.1 1 with
  | some ⟨_, _, .ram⟩ => { s with mem := writeByte s.mem c.1 c.2 }
  | _ => s

/-- One byte another agent stores during a step, before the bus access at a place and after those before it: the earlier
reads of the step see what the byte held (40_step.md rule R420, log entry 9). -/
def applyLateWrite (w : Nat × Host.Cell) (s : State) : State :=
  { applyBusWrite w.2 s with former := s.former ++ [(w.1, (w.2.1, readByte s.mem w.2.1))] }

/-- Reservations the system drops, only where `RESV_SPURIOUS` holds (46_atomics.md rules R622, R624). -/
def dropReservations (keys : List Nat) (s : State) : State :=
  if s.cfg.resvSpurious then { s with resv := s.resv.filter (fun e => !keys.contains e.1) } else s

/-- The uptime moves on and never back (10_state.md rule R107). -/
def advanceUptime (by_ : BitVec 64) (s : State) : State :=
  { s with uptime := if s.uptime.toNat + by_.toNat < 2 ^ 64 then s.uptime + by_ else 0xFFFFFFFFFFFFFFFF }

/-- The timer facility sets the supervisor-timer line once the registered deadline has passed
(60_exceptions.md rule R906). -/
def fireTimer (waits : Bool) (s : State) : State :=
  match s.timerDeadline with
  | none => s
  | some d =>
    if d ≤ s.uptime ∧ waits = false then { s with mip := setBit s.mip 5 true, timerDeadline := none } else s

/-- What arrives before a step, and the step's own start (40_step.md rule R420). -/
def beginStep (i : StepInput) (s : State) : State :=
  let s := { s with
    env := s.env.tail, former := [], trapPending := false, wroteMcycle := false, wroteMinstret := false }
  let s := i.lines.foldl (fun s l => applyLine l s) s
  let s := i.busWrites.foldl (fun s c => applyBusWrite c s) s
  fireTimer i.timerWaits (advanceUptime i.advance (dropReservations i.dropResv s))

/-- What arrives during a step, after its poll point (40_step.md rule R420). -/
def duringStep (i : StepInput) (s : State) : State :=
  i.lateWrites.foldl (fun s w => applyLateWrite w s) (i.lateLines.foldl (fun s l => applyLine l s) s)

/-- The interrupt a poll point takes (40_step.md rules R429, R430). -/
def pollInterrupt (pollDue : Bool) (s : State) : Option (Irq × Bool) := if pollDue then interruptScan s else none

/-- Retire (40_step.md rule R428, 10_state.md rule R85): `pc <- npc`, the counters, the next draw. DESIGN CHOICE (log
entry 19): the poll counter of rule R429 counts here, at the end of every step. -/
def retire (executed : Bool) (s : State) : State :=
  { s with
    pc := s.npc
    minstret := if executed && !s.trapPending && !s.wroteMinstret then s.minstret + 1 else s.minstret
    mcycle := if s.wroteMcycle then s.mcycle else s.mcycle + 1
    trapPending := false
    former := []
    wroteMcycle := false
    wroteMinstret := false
    pollCounter := s.pollCounter + 1
    draws := s.draws + 1 }

end Sys2Proof.Machine
end

