-- ==== Sys2Proof/Machine/Fetch.lean ====
section
/-!
DEFINITION. Machine/Fetch.lean: the front half of a step (40_step.md rules R421 to R425, R427): the odd-`pc` check, the
icache, the fetch by parcels and the decoder's answer.
-/

namespace Sys2Proof.Machine

/-- `Fetch(pc)` (rule R423): a compressed instruction never touches the next parcel. -/
def fetchWord (s : State) : Except Exn IcacheLine :=
  match fetchParcel .fetchLow s.pc s with
  | .error e => .error e
  | .ok p0 =>
    if p0.extractLsb' 0 2 ≠ 0b11#2 then .ok ⟨2, p0.setWidth 32⟩
    else
      match fetchParcel .fetchHigh (norm s.cfg.xlen (s.pc + 2)) s with
      | .error e => .error e
      | .ok p1 => .ok ⟨4, p1 ++ p0⟩

/-- What the front half of a step gives: an exception, or an instruction with its line and whether the icache gave
it. -/
inductive Fetched where
  | trap (e : Exn)
  | instr (i : Instr) (line : IcacheLine) (hit : Bool)
deriving DecidableEq, Repr

/-- Decode a line; a decode miss raises with the word as trap value (rules R424, R425). -/
def decodeLine (xl : Xlen) (line : IcacheLine) (hit : Bool) : Fetched :=
  match decodeWord xl line.word with
  | .ok i => .instr i line hit
  | .error _ => .trap ⟨.illegalInstr, line.word.setWidth 64⟩

/-- The icache line a step uses: one that is present may be used or not (rule R422, 20_memory.md rule R263). -/
def icacheHit (useIcache : Bool) (s : State) : Option IcacheLine :=
  if s.cfg.icacheEnabled then
    match mapLookup s.pc.toNat s.icache with
    | some line => if useIcache then some line else none
    | none => none
  else none

/-- Steps a to e of rule R420 up to the handler. -/
def fetchDecode (useIcache : Bool) (s : State) : Fetched :=
  if bit s.pc 0 then .trap ⟨.instrAddrMisaligned, s.pc⟩
  else
    match icacheHit useIcache s with
    | some line => decodeLine s.cfg.xlen line true
    | none =>
      match fetchWord s with
      | .error e => .trap e
      | .ok line => decodeLine s.cfg.xlen line false

/-- A reserved encoding: the decoder refuses it, so it is a decode miss that fills no line (rules R331, R427). -/
def isReserved : Instr → Bool
  | .cIllegal _ => true
  | _ => false

/-- The icache fill after the handler, on a miss path (rule R427). -/
def fillIcache (i : Instr) (line : IcacheLine) (hit fillAfterTrap : Bool) (s : State) : State :=
  if s.cfg.icacheEnabled && !hit && !isReserved i && (!s.trapPending || fillAfterTrap) then
    { s with icache := mapInsert s.pc.toNat line s.icache }
  else s

/-- The physical address a fetch at a virtual address reads, where translation gives one. -/
def fetchAddr (va : Word) (s : State) : Nat :=
  match translate .fetch .fetchLow va s with
  | .ok pa => pa
  | .error _ => va.toNat

/-- Put a word where the next fetch reads it, and drop the icache line that could hide it (log entry 11). -/
def placeWord (w : BitVec 32) (s : State) : State :=
  { s with
    mem := writeBytes (writeBytes s.mem (fetchAddr s.pc s) 2 (w.setWidth 64))
      (fetchAddr (norm s.cfg.xlen (s.pc + 2)) s) 2 (w.setWidth 64 >>> 16)
    icache := mapErase s.pc.toNat s.icache }

end Sys2Proof.Machine
end

