-- ==== Sys2Proof/Machine/Cycle.lean ====
section
/-!
DEFINITION. Machine/Cycle.lean: the per-step protocol (40_step.md rule R420).
-/

namespace Sys2Proof.Machine

/-- The state an instruction runs in: `npc <- pc + len` (rule R426). -/
def atInstr (line : IcacheLine) (s : State) : State := { s with npc := linkAddr line.len s }

/-- What follows a handler: the icache fill and the retire (rules R427, R428). -/
def finish (i : Instr) (line : IcacheLine) (hit fillAfterTrap : Bool) (r : Result) : Result :=
  match r with
  | .next s => .next (retire true (fillIcache i line hit fillAfterTrap s))
  | .fault f => .fault f
  | .refused w => .refused w

/-- Steps a to f of rule R420, in the state after a poll point that delivered nothing. -/
def runInstr (inp : StepInput) (s : State) : Result :=
  match fetchDecode inp.useIcache s with
  | .trap e => .next (retire false (deliver e s))
  | .instr i line hit => finish i line hit inp.fillAfterTrap (exec i (atInstr line s))

/-- One step of a Running hart with its draws; a step that takes an interrupt executes no instruction and makes no bus
access (rules R420, R430), so that what would arrive during it is left to the next step. -/
def cycle (pollDue : Bool) (inp : StepInput) (s : State) : Result :=
  let s0 := beginStep inp s
  match pollInterrupt pollDue s0 with
  | some (i, toS) => .next (retire false (deliverInterrupt i toS s0))
  | none => runInstr inp (duringStep inp s0)

/-- A step, with a poll point or without one (rules R429, R433). -/
def stepWith (pollDue : Bool) (s : State) : Result :=
  if s.runState = .running then cycle pollDue (nextInput s) s else .refused .hartNotRunning

/-- `poll_due()` inside `run`: the poll counter is a multiple of `POLL_PERIOD` (rule R429). It is read before the step,
and `retire` counts the step afterwards (log entry 19). -/
def pollDue (s : State) : Bool := s.pollCounter % s.cfg.pollPeriod == 0

end Sys2Proof.Machine
end

