-- ==== Sys2Proof/Machine/Step.lean ====
section
/-!
DEFINITION. Machine/Step.lean: the host's `step()`, and a word placed where it fetches.
-/

namespace Sys2Proof.Machine

/-- `step()`: a poll point is due in every one (40_step.md rules R429, R433). -/
def step (s : State) : Host.Outcome State Fault Refusal := stepWith true s

/-- The state with an instruction's word where the next step fetches it (log entry 11). -/
def State.withFetchWord (s : State) (nbits w : Nat) : State := placeWord (BitVec.ofNat 32 (w % 2 ^ nbits)) s

end Sys2Proof.Machine
end

