-- ==== Sys2Proof/Safety.lean ====
section
/-!
DEFINITION. Safety.lean: what every state between two steps satisfies, and the words the statements use for what an
instruction leaves alone.
-/

namespace Sys2Proof.Machine

/-! ### The invariant -/

/-- Every bit outside a mask is 0. -/
abbrev Within (mask v : Word) : Prop := v &&& ~~~mask = 0

/-- A register holds no bit above XLEN. -/
abbrev Fits (xl : Xlen) (v : Word) : Prop := norm xl v = v

/-- The bits of `mstatus` that can be 1: the writable ones, and the read-only views of rule R71 with XLEN = 64. -/
def mstatusBits : Xlen → Word
  | .rv32 => 0x800E79AA
  | .rv64 => 0x8000000A000E79AA

/-- `mstatus` as 10_state.md rules R70 and R71 allow it: MPP is a mode, SD says whether FS is Dirty, SXL and UXL are
2 with XLEN = 64, the reserved bits are 0. -/
structure MstatusLegal (xl : Xlen) (m : Word) : Prop where
  reserved : Within (mstatusBits xl) m
  mpp      : m.extractLsb' 11 2 ≠ 2#2
  dirty    : bit m (xl.bits - 1) = (m.extractLsb' 13 2 == 3#2)
  widths   : xl = .rv64 → m.extractLsb' 32 4 = 0b1010#4

/-- `misa` as rule R72 allows it: bit E is the complement of bit I, D is clear where F is. -/
structure MisaLegal (xl : Xlen) (m : Word) : Prop where
  letters : Within 0x03FFFFFF (m ^^^ resetMisa xl)
  base    : bit m 4 = !bit m 8
  double  : bit m 5 = false → bit m 3 = false

/-- `satp` as rule R99 allows it: a supported MODE, ASID 0. -/
structure SatpLegal (xl : Xlen) (v : Word) : Prop where
  mode32 : xl = .rv32 → Within 0x803FFFFF v
  asid64 : xl = .rv64 → v.extractLsb' 44 16 = 0
  mode64 : xl = .rv64 → v.extractLsb' 60 4 = 0#4 ∨ v.extractLsb' 60 4 = 8#4 ∨ v.extractLsb' 60 4 = 9#4
    ∨ v.extractLsb' 60 4 = 10#4

/-- The CSRs hold only what their write-hooks let through (10_state.md rules R70 to R100). -/
structure CsrsLegal (s : State) : Prop where
  mstatus    : MstatusLegal s.cfg.xlen s.mstatus
  misa       : MisaLegal s.cfg.xlen s.misa
  medeleg    : Within medelegMask s.medeleg
  mideleg    : Within supervisorMask s.mideleg
  mie        : Within mieMask s.mie
  mip        : Within mieMask s.mip
  mtvec      : bit s.mtvec 1 = false
  stvec      : bit s.stvec 1 = false
  mcounteren : Within counterenMask s.mcounteren
  scounteren : Within counterenMask s.scounteren
  satp       : SatpLegal s.cfg.xlen s.satp
  pmpcfg     : ∀ i : Fin 64, s.pmpcfg[i] &&& ~~~pmpcfgMask = 0
  pmpaddr    : ∀ i : Fin 64, Within (pmpaddrMask s.cfg.xlen) s.pmpaddr[i]

/-- With XLEN = 32 no register has a bit above 31 (00_scope.md rule R10), and the word of `x0` is 0. -/
structure WidthsLegal (s : State) : Prop where
  x        : ∀ i : Fin 32, Fits s.cfg.xlen s.x[i]
  x0       : s.x[0] = 0
  pc       : Fits s.cfg.xlen s.pc
  npc      : Fits s.cfg.xlen s.npc
  haltPc   : Fits s.cfg.xlen s.haltPc
  haltCode : Fits s.cfg.xlen s.haltCode
  medelegh : Fits s.cfg.xlen s.medelegh
  mtvec    : Fits s.cfg.xlen s.mtvec
  mscratch : Fits s.cfg.xlen s.mscratch
  mepc     : Fits s.cfg.xlen s.mepc
  mcause   : Fits s.cfg.xlen s.mcause
  mtval    : Fits s.cfg.xlen s.mtval
  stvec    : Fits s.cfg.xlen s.stvec
  sscratch : Fits s.cfg.xlen s.sscratch
  sepc     : Fits s.cfg.xlen s.sepc
  scause   : Fits s.cfg.xlen s.scause
  stval    : Fits s.cfg.xlen s.stval

/-- The maps are in their canonical form (Machine/Ops.lean). -/
structure MapsSorted (s : State) : Prop where
  mem    : Memory.wf s.mem
  resv   : keysSorted s.resv
  icache : keysSorted s.icache

/-- Between steps nothing of the last step is pending (10_state.md rule R48). -/
structure Quiet (s : State) : Prop where
  trapPending   : s.trapPending = false
  wroteMcycle   : s.wroteMcycle = false
  wroteMinstret : s.wroteMinstret = false
  former        : s.former = []

/-- What every state between two steps satisfies. -/
structure State.Inv (s : State) : Prop where
  maps   : MapsSorted s
  csrs   : CsrsLegal s
  widths : WidthsLegal s
  quiet  : Quiet s

/-! ### Frames -/

/-- Every byte of memory reads as before. -/
def SameMemory (s t : State) : Prop := ∀ a, readByte t.mem a = readByte s.mem a

/-- Every byte of memory outside `[a, a + n)` reads as before. -/
def SameMemoryOutside (a n : Nat) (s t : State) : Prop :=
  ∀ b, b < a ∨ a + n ≤ b → readByte t.mem b = readByte s.mem b

/-- Every general register but `rd` reads as before. -/
def SameXBut (rd : Reg) (s t : State) : Prop := ∀ r, r ≠ rd → readX r t = readX r s

/-- Every floating-point register but `rd` reads as before. -/
def SameFBut (rd : FReg) (s t : State) : Prop := ∀ r, r ≠ rd → readF r t = readF r s

/-- Only `x[rd]` and the next program counter may differ: no other register, no CSR, no mode, no byte of memory, no
reservation and no icache line. -/
structure OnlyX (rd : Reg) (s t : State) : Prop where
  regs   : SameXBut rd s t
  memory : SameMemory s t
  rest   : t = { s with x := t.x, npc := t.npc }

/-- Only the next program counter may differ. -/
structure OnlyNpc (s t : State) : Prop where
  memory : SameMemory s t
  rest   : t = { s with npc := t.npc }

/-- Only the bytes of `[a, a + n)` may differ, and the next program counter. -/
structure OnlyMem (a n : Nat) (s t : State) : Prop where
  memory : SameMemoryOutside a n s t
  rest   : t = { s with mem := t.mem, npc := t.npc }

/-- Only `f[rd]`, the exception flags, FS with SD and the next program counter may differ. -/
structure OnlyF (rd : FReg) (s t : State) : Prop where
  regs    : SameFBut rd s t
  memory  : SameMemory s t
  frm     : t.fcsr.extractLsb' 5 3 = s.fcsr.extractLsb' 5 3
  mstatus : t.mstatus = withSD s.cfg.xlen (setField s.mstatus 13 2 3)
  rest    : t = { s with f := t.f, fcsr := t.fcsr, mstatus := t.mstatus, npc := t.npc }

/-! ### What an instruction gives, in numbers -/

/-- The signed reading of a `w`-bit pattern (00_scope.md rule R11). -/
def signedOf (w n : Nat) : Int := if 2 * n < 2 ^ w then n else n - 2 ^ w

/-- `u(x[r])`. -/
def regU (r : Reg) (s : State) : Nat := (readX r s).toNat

/-- `s(x[r])`. -/
def regS (r : Reg) (s : State) : Int := signedOf s.cfg.xlen.bits (regU r s)

/-- `u(x[r][31:0])`. -/
def lowU (r : Reg) (s : State) : Nat := regU r s % 2 ^ 32

/-- `s(x[r][31:0])`. -/
def lowS (r : Reg) (s : State) : Int := signedOf 32 (lowU r s)

/-- `sext_64` of the 32 low bits of an integer. -/
def wrap32 (v : Int) : Int := signedOf 32 (v % 2 ^ 32).toNat

/-- A value modulo 2^XLEN. -/
def wrapX (v : Int) (s : State) : Int := v % 2 ^ s.cfg.xlen.bits

/-- The register `8 + u(r')` (30_encoding.md rule R381). -/
def wide (r : BitVec 3) : Reg := BitVec.ofNat 5 (8 + r.toNat)

/-- The number 1 of a condition that holds, the number 0 of one that fails. -/
def ofProp (p : Prop) [Decidable p] : Int := if p then 1 else 0

/-- The instruction answers a state in which `x[rd]` holds a value modulo 2^XLEN (`x0` holds 0), `npc` is the
sequential one and nothing else has changed. -/
def GivesX (i : Instr) (rd : Reg) (v : Int) (s : State) : Prop :=
  ∃ t, exec i s = .next t ∧ (regU rd t : Int) = (if rd = 0 then 0 else wrapX v s) ∧ OnlyX rd s t ∧ t.npc = s.npc

/-- The instruction answers a state in which `x[rd]` holds a link value and `npc` a target, both modulo 2^XLEN, and
nothing else has changed. -/
def GivesJump (i : Instr) (rd : Reg) (link target : Int) (s : State) : Prop :=
  ∃ t, exec i s = .next t ∧ (regU rd t : Int) = (if rd = 0 then 0 else wrapX link s) ∧ OnlyX rd s t
    ∧ (t.npc.toNat : Int) = wrapX target s

/-- The instruction answers a state in which only `npc` may have changed: to `pc + offset` where the condition holds,
not at all where it fails. -/
def GivesBranch (i : Instr) (cond : Prop) (offset : Int) (s : State) : Prop :=
  ∃ t, exec i s = .next t ∧ OnlyNpc s t ∧ (cond → (t.npc.toNat : Int) = wrapX (s.pc.toNat + offset) s)
    ∧ (¬cond → t.npc = s.npc)

/-- An access passes the checks of 20_memory.md rules R212, R230 and R241: aligned, translated to `pa`, permitted. -/
structure Passes (acc : Access) (ea : Word) (n pa : Nat) (s : State) : Prop where
  aligned    : ea.toNat % n = 0
  translated : translate acc .data ea s = .ok pa
  permitted  : pmpOk acc pa n s = true

/-- The whole access lies in a memory region (20_memory.md rule R206). -/
def InRam (pa n : Nat) (s : State) : Prop := ∃ r, regionOf s.cfg.bus pa n = some r ∧ r.kind = .ram

/-- The whole access lies in a device region (20_memory.md rule R206). -/
def InDevice (pa n : Nat) (s : State) : Prop := ∃ r, regionOf s.cfg.bus pa n = some r ∧ r.kind = .device

/-- A `mip` bit after line calls, in their order (60_exceptions.md rule R905). -/
def lineAfter (calls : List (Irq × Bool)) (k : Nat) (b : Bool) : Bool :=
  calls.foldl (fun b l => if l.1.code = k then l.2 else b) b

/-- A byte after stores of other agents, in their order; a byte outside the memory regions keeps what it holds
(20_memory.md rule R206). -/
def byteAfter (writes : List Host.Cell) (s : State) (a : Nat) : Byte :=
  writes.foldl (fun b c => if c.1 = a ∧ ∃ r ∈ regionOf s.cfg.bus a 1, r.kind = .ram then c.2 else b) (readByte s.mem a)

/-- The `n` bytes from `a` as a little-endian number (20_memory.md rule R210). -/
def leNat (m : List Host.Cell) (a : Nat) : Nat → Nat
  | 0 => 0
  | n + 1 => (readByte m a).toNat + 256 * leNat m (a + 1) n

/-- A load passes its checks and the bus answers the number `v`: memory its bytes, a device what it likes. -/
structure Loads (ea : Word) (n pa v : Nat) (s : State) : Prop where
  passes : Passes .load ea n pa s
  value  : (InRam pa n s ∧ v = leNat s.mem pa n)
    ∨ (InDevice pa n s ∧ ∃ w, Config.deviceRead s.draws .data none pa n = some w ∧ v = w.toNat % 2 ^ (8 * n))

/-- The fetch of the parcel at `va` fails, and with which exception (20_memory.md rules R217, R218): a page fault of the
translation, or an access fault of the translation, of the PMP or of the bus. -/
def ParcelFails (slot : Slot) (va : Word) (c : Cause) (s : State) : Prop :=
  (translate .fetch slot va s = .error .pageFault ∧ c = .instrPageFault)
  ∨ (c = .instrAccessFault ∧ (translate .fetch slot va s = .error .accessFault
    ∨ ∃ pa, translate .fetch slot va s = .ok pa ∧ (pmpOk .fetch pa 2 s = false ∨ regionOf s.cfg.bus pa 2 = none
      ∨ (InDevice pa 2 s ∧ Config.deviceRead s.draws slot none pa 2 = none))))

/-- The fetch of the parcel at `va` gives the number `v`: the two bytes that it sees in memory, little-endian, or what a
device likes (20_memory.md rule R217). -/
def ParcelReads (slot : Slot) (va : Word) (v : Nat) (s : State) : Prop :=
  ∃ pa, translate .fetch slot va s = .ok pa ∧ pmpOk .fetch pa 2 s = true
    ∧ ((InRam pa 2 s ∧ v = (seenByte slot none s pa).toNat + 256 * (seenByte slot none s (pa + 1)).toNat)
      ∨ (InDevice pa 2 s ∧ ∃ w, Config.deviceRead s.draws slot none pa 2 = some w ∧ v = w.toNat % 2 ^ 16))

/-- The instruction stores the `n` low bytes of a number, little-endian, and changes nothing else; a device that
accepts the store leaves no trace in the hart, one that refuses it makes an access fault. -/
def GivesStore (i : Instr) (ea : Word) (n v : Nat) (s : State) : Prop :=
  ∀ pa, Passes .store ea n pa s →
    (InRam pa n s → ∃ t, exec i s = .next t ∧ OnlyMem pa n s t ∧ t.npc = s.npc
      ∧ ∀ k, k < n → (readByte t.mem (pa + k)).toNat = v / 256 ^ k % 256)
    ∧ (InDevice pa n s →
      (Config.deviceWrite s.draws pa n (BitVec.ofNat 64 (v % 2 ^ (8 * n))) = true → exec i s = .next s)
      ∧ (Config.deviceWrite s.draws pa n (BitVec.ofNat 64 (v % 2 ^ (8 * n))) = false →
        exec i s = .next (deliver ⟨.storeAccessFault, ea⟩ s)))

/-- The instruction takes the exception (60_exceptions.md rule R870). -/
def Raises (i : Instr) (c : Cause) (tval : Word) (s : State) : Prop := exec i s = .next (deliver ⟨c, tval⟩ s)

/-- The register image `v`, the flags `fl`: `f[rd]` and the flags get them, FS becomes Dirty, `npc` is the sequential
one and nothing else has changed (47_float_f.md rules R663, R664). -/
def GivesF (i : Instr) (rd : FReg) (v : BitVec 64) (fl : BitVec 5) (s : State) : Prop :=
  ∃ t, exec i s = .next t ∧ readF rd t = v ∧ t.fcsr = s.fcsr ||| fl.setWidth 8 ∧ OnlyF rd s t ∧ t.npc = s.npc

/-- `x[rd]` gets a value modulo 2^XLEN and the flags accrue `fl`; FS becomes Dirty where `fl` is not 0; nothing else
has changed (47_float_f.md rules R663, R664). -/
def GivesXFlags (i : Instr) (rd : Reg) (v : Int) (fl : BitVec 5) (s : State) : Prop :=
  ∃ t, exec i s = .next t ∧ (regU rd t : Int) = (if rd = 0 then 0 else wrapX v s) ∧ SameXBut rd s t ∧ SameMemory s t
    ∧ t = { s with
        x := t.x
        fcsr := s.fcsr ||| fl.setWidth 8
        mstatus := if fl = 0 then s.mstatus else withSD s.cfg.xlen (setField s.mstatus 13 2 3) }

/-- The rounding mode an `rm` field selects is a legal one (47_float_f.md rule R665). -/
def RoundsBy (rm m : Rm) (s : State) : Prop := m = (if rm = 7 then s.fcsr.extractLsb' 5 3 else rm) ∧ m.toNat < 5

/-- The number `combine` gives on `w`-bit numbers, as 46_atomics.md rule R630 tables it. -/
def combineNat (kind : AtomicKind) (w old src : Nat) : Nat :=
  match kind with
  | .swap => src
  | .add => (old + src) % 2 ^ w
  | .xor => old ^^^ src
  | .and => old &&& src
  | .or => old ||| src
  | .min => if signedOf w old < signedOf w src then old else src
  | .max => if signedOf w old > signedOf w src then old else src
  | .minu => if old < src then old else src
  | .maxu => if old > src then old else src

/-! ### Floating point, on the bits (47_float_f.md rule R666) -/

/-- A pattern of the format: a single's has 32 bits. -/
abbrev IsPattern (f : Fmt) (v : BitVec 64) : Prop := v.toNat < (match f with | .s => 2 ^ 32 | .d => 2 ^ 64)

/-- The sign bit. -/
def signOf (f : Fmt) (v : BitVec 64) : Bool := match f with | .s => bit v 31 | .d => bit v 63

/-- The exponent field. -/
def expOf (f : Fmt) (v : BitVec 64) : Nat :=
  match f with | .s => v.toNat / 2 ^ 23 % 2 ^ 8 | .d => v.toNat / 2 ^ 52 % 2 ^ 11

/-- The fraction field. -/
def fracOf (f : Fmt) (v : BitVec 64) : Nat := match f with | .s => v.toNat % 2 ^ 23 | .d => v.toNat % 2 ^ 52

/-- The exponent field of infinities and NaNs. -/
def topExp : Fmt → Nat
  | .s => 255
  | .d => 2047

/-- A NaN. -/
abbrev FpNaN (f : Fmt) (v : BitVec 64) : Prop := expOf f v = topExp f ∧ fracOf f v ≠ 0

/-- A signaling NaN: the top fraction bit is 0. -/
abbrev FpSNaN (f : Fmt) (v : BitVec 64) : Prop :=
  FpNaN f v ∧ (match f with | .s => bit v 22 | .d => bit v 51) = false

/-- An infinity. -/
abbrev FpInf (f : Fmt) (v : BitVec 64) : Prop := expOf f v = topExp f ∧ fracOf f v = 0

/-- A zero. -/
abbrev FpZero (f : Fmt) (v : BitVec 64) : Prop := expOf f v = 0 ∧ fracOf f v = 0

/-- The pattern of a signed zero. -/
def zeroPattern (f : Fmt) (neg : Bool) : BitVec 64 :=
  match f, neg with
  | _, false => 0
  | .s, true => 0x80000000
  | .d, true => 0x8000000000000000

/-- The pattern of a signed infinity. -/
def infPattern (f : Fmt) (neg : Bool) : BitVec 64 :=
  match f, neg with
  | .s, false => 0x7F800000
  | .s, true => 0xFF800000
  | .d, false => 0x7FF0000000000000
  | .d, true => 0xFFF0000000000000

/-- The canonical NaN (47_float_f.md rule R667). -/
def quietPattern : Fmt → BitVec 64
  | .s => 0x7FC00000
  | .d => 0x7FF8000000000000

/-- A pattern of the format, neither infinite nor NaN. -/
def fpFinite (f : Fmt) (v : BitVec 64) : Prop := IsPattern f v ∧ expOf f v < topExp f

/-- The exponent of the lowest bit of the smallest subnormal. -/
def leastExp : Fmt → ℤ
  | .s => -149
  | .d => -1074

/-- The number of fraction bits. -/
def fracBits : Fmt → Nat
  | .s => 23
  | .d => 52

/-- The value of a finite pattern as a rational number. -/
def fpValue (f : Fmt) (v : BitVec 64) : ℚ :=
  (if signOf f v then -1 else 1)
    * (if expOf f v = 0 then (fracOf f v : ℚ) * 2 ^ leastExp f
       else (2 ^ fracBits f + fracOf f v : ℚ) * 2 ^ (leastExp f + expOf f v - 1))

section Rounding

variable {K : Type} [Field K] [LinearOrder K]

/-- An integer is what a rounding mode makes of a number (47_float_f.md rule R665): 0 to the nearest, ties to even; 1
towards zero; 2 down; 3 up; 4 to the nearest, ties away from zero. -/
def RoundsToInt (rm : Rm) (x : K) (n : ℤ) : Prop :=
  match rm.toNat with
  | 0 => 2 * |x - n| ≤ 1 ∧ (2 * |x - n| = 1 → n % 2 = 0)
  | 1 => if 0 ≤ x then n ≤ x ∧ x < n + 1 else x ≤ n ∧ n - 1 < x
  | 2 => n ≤ x ∧ x < n + 1
  | 3 => x ≤ n ∧ n - 1 < x
  | 4 => 2 * |x - n| ≤ 1 ∧ (2 * |x - n| = 1 → |x| < |(n : K)|)
  | _ => False

/-- What an overflow gives: infinity, or the largest finite number where the mode rounds towards it (47_float_f.md rule
R668, OF). -/
def overflowPattern (f : Fmt) (rm : Rm) (neg : Bool) : BitVec 64 :=
  if rm = 1 ∨ (rm = 2 ∧ neg = false) ∨ (rm = 3 ∧ neg = true) then infPattern f neg - 1 else infPattern f neg

/-- A pattern and flags are what rounding a nonzero number into a format gives (47_float_f.md rules R661, R668): the
number in units of its last place, or of the least subnormal's, rounded to an integer; an overflow where that reaches
twice the greatest power of two; NX where it is not the number itself, and UF too where the number rounded without a
least exponent is below the least normal. -/
def RoundsTo (f : Fmt) (rm : Rm) (x : K) (r : BitVec 64 × BitVec 5) : Prop :=
  ∃ top n n' : ℤ, 2 ^ top ≤ |x| ∧ |x| < 2 ^ (top + 1)
    ∧ RoundsToInt rm (x / 2 ^ max (top - fracBits f) (leastExp f)) n
    ∧ RoundsToInt rm (x / 2 ^ (top - fracBits f)) n'
    ∧ (let y : K := n * 2 ^ max (top - fracBits f) (leastExp f)
      (2 ^ (match f with | .s => 128 | .d => 1024) ≤ |y| → r = (overflowPattern f rm (decide (x < 0)), 5#5))
      ∧ (|y| < 2 ^ (match f with | .s => 128 | .d => 1024) →
        fpFinite f r.1 ∧ signOf f r.1 = decide (x < 0) ∧ (fpValue f r.1 : K) = y
        ∧ (y = x → r.2 = 0)
        ∧ (y ≠ x → |(n' : K) * 2 ^ (top - fracBits f)| < 2 ^ (leastExp f + fracBits f) → r.2 = 3)
        ∧ (y ≠ x → 2 ^ (leastExp f + fracBits f) ≤ |(n' : K) * 2 ^ (top - fracBits f)| → r.2 = 1)))

end Rounding

/-- The least and the greatest integer of a destination (47_float_f.md rule R700). -/
def intBounds (w : Nat) (isSigned : Bool) : ℤ × ℤ :=
  if isSigned then (-2 ^ (w - 1), 2 ^ (w - 1) - 1) else (0, 2 ^ w - 1)

/-! ### Classes of instructions -/

/-- The six CSR instructions (44_system.md rule R570): `rd`, the CSR address, whether the form writes, and the value it
writes as a function of the old one. -/
def csrForm (i : Instr) (s : State) : Option (Reg × CsrAddr × Bool × (Word → Word)) :=
  match i with
  | .csrrw rd rs1 a => some (rd, a, true, fun _ => readX rs1 s)
  | .csrrs rd rs1 a => some (rd, a, decide (rs1 ≠ 0), fun old => old ||| readX rs1 s)
  | .csrrc rd rs1 a => some (rd, a, decide (rs1 ≠ 0), fun old => old &&& ~~~(readX rs1 s))
  | .csrrwi rd u a => some (rd, a, true, fun _ => u.setWidth 64)
  | .csrrsi rd u a => some (rd, a, decide (u ≠ 0), fun old => old ||| u.setWidth 64)
  | .csrrci rd u a => some (rd, a, decide (u ≠ 0), fun old => old &&& ~~~(u.setWidth 64))
  | _ => none

/-- The rows of the CSR address map but for the PMP's, as 10_state.md rule R66 tables them: the address, whether it exists
with XLEN = 32 only, and the register. -/
def csrRows : List (Nat × Bool × Csr) :=
  [(0x001, false, .fflags), (0x002, false, .frm), (0x003, false, .fcsr), (0xC00, false, .cycle), (0xC01, false, .time),
    (0xC02, false, .instret), (0xC80, true, .cycleh), (0xC81, true, .timeh), (0xC82, true, .instreth)]
  ++ [(0x100, false, .sstatus), (0x104, false, .sie), (0x105, false, .stvec), (0x106, false, .scounteren),
    (0x140, false, .sscratch), (0x141, false, .sepc), (0x142, false, .scause), (0x143, false, .stval),
    (0x144, false, .sip), (0x14D, false, .stimecmp), (0x15D, true, .stimecmph), (0x180, false, .satp)]
  ++ [(0x300, false, .mstatus), (0x301, false, .misa), (0x302, false, .medeleg), (0x303, false, .mideleg),
    (0x304, false, .mie), (0x305, false, .mtvec), (0x306, false, .mcounteren), (0x310, true, .mstatush),
    (0x312, true, .medelegh), (0x340, false, .mscratch), (0x341, false, .mepc), (0x342, false, .mcause),
    (0x343, false, .mtval), (0x344, false, .mip)]
  ++ [(0xB00, false, .mcycle), (0xB02, false, .minstret), (0xB80, true, .mcycleh), (0xB82, true, .minstreth),
    (0xF11, false, .mvendorid), (0xF12, false, .marchid), (0xF13, false, .mimpid), (0xF14, false, .mhartid),
    (0xF15, false, .mconfigptr)]

/-- An address names a register in a build (10_state.md rules R65 to R67, R86): by a row of the map, or as a `pmpcfg`, of
which XLEN = 64 has the even ones, or as a `pmpaddr`. -/
def csrNamed (xl : Xlen) (a : Nat) (c : Csr) : Prop :=
  (∃ only32, (a, only32, c) ∈ csrRows ∧ (only32 = true → xl = .rv32))
  ∨ (∃ n : BitVec 4, a = 0x3A0 + n.toNat ∧ c = .pmpcfg n ∧ (xl = .rv64 → n.toNat % 2 = 0))
  ∨ ∃ n : BitVec 6, a = 0x3B0 + n.toNat ∧ c = .pmpaddr n

/-- One of the six CSR instructions. -/
def isCsrInstr (i : Instr) : Bool :=
  match i with
  | .csrrw _ _ _ | .csrrs _ _ _ | .csrrc _ _ _ | .csrrwi _ _ _ | .csrrsi _ _ _ | .csrrci _ _ _ => true
  | _ => false

/-- LR and SC. -/
def isReservation (i : Instr) : Bool :=
  match i with
  | .lrW _ _ _ _ | .lrD _ _ _ _ | .scW _ _ _ _ _ | .scD _ _ _ _ _ => true
  | _ => false

/-- An AMO: its width in bytes, its kind, `rd`, `rs1` and `rs2` (46_atomics.md rules R631 to R648). -/
def amoForm (i : Instr) : Option (Nat × AtomicKind × Reg × Reg × Reg) :=
  match i with
  | .amoswapW rd rs1 rs2 _ _ => some (4, .swap, rd, rs1, rs2)
  | .amoaddW rd rs1 rs2 _ _ => some (4, .add, rd, rs1, rs2)
  | .amoxorW rd rs1 rs2 _ _ => some (4, .xor, rd, rs1, rs2)
  | .amoandW rd rs1 rs2 _ _ => some (4, .and, rd, rs1, rs2)
  | .amoorW rd rs1 rs2 _ _ => some (4, .or, rd, rs1, rs2)
  | .amominW rd rs1 rs2 _ _ => some (4, .min, rd, rs1, rs2)
  | .amomaxW rd rs1 rs2 _ _ => some (4, .max, rd, rs1, rs2)
  | .amominuW rd rs1 rs2 _ _ => some (4, .minu, rd, rs1, rs2)
  | .amomaxuW rd rs1 rs2 _ _ => some (4, .maxu, rd, rs1, rs2)
  | .amoswapD rd rs1 rs2 _ _ => some (8, .swap, rd, rs1, rs2)
  | .amoaddD rd rs1 rs2 _ _ => some (8, .add, rd, rs1, rs2)
  | .amoxorD rd rs1 rs2 _ _ => some (8, .xor, rd, rs1, rs2)
  | .amoandD rd rs1 rs2 _ _ => some (8, .and, rd, rs1, rs2)
  | .amoorD rd rs1 rs2 _ _ => some (8, .or, rd, rs1, rs2)
  | .amominD rd rs1 rs2 _ _ => some (8, .min, rd, rs1, rs2)
  | .amomaxD rd rs1 rs2 _ _ => some (8, .max, rd, rs1, rs2)
  | .amominuD rd rs1 rs2 _ _ => some (8, .minu, rd, rs1, rs2)
  | .amomaxuD rd rs1 rs2 _ _ => some (8, .maxu, rd, rs1, rs2)
  | _ => none

/-- The virtual address and the width of an instruction that is a Load access (20_memory.md rules R213, R218). -/
def loadAccess (i : Instr) (s : State) : Option (Word × Nat) :=
  match i with
  | .lb _ rs1 imm | .lbu _ rs1 imm => some (effAddr rs1 (sextImm imm) s, 1)
  | .lh _ rs1 imm | .lhu _ rs1 imm => some (effAddr rs1 (sextImm imm) s, 2)
  | .lw _ rs1 imm | .lwu _ rs1 imm | .flw _ rs1 imm => some (effAddr rs1 (sextImm imm) s, 4)
  | .ld _ rs1 imm | .fld _ rs1 imm => some (effAddr rs1 (sextImm imm) s, 8)
  | .cLw _ rs1 imm | .cFlw _ rs1 imm => some (effAddr (wide rs1) (scaledImm 2 imm) s, 4)
  | .cLd _ rs1 imm | .cFld _ rs1 imm => some (effAddr (wide rs1) (scaledImm 3 imm) s, 8)
  | .cLwsp _ imm | .cFlwsp _ imm => some (effAddr 2 (scaledImm 2 imm) s, 4)
  | .cLdsp _ imm | .cFldsp _ imm => some (effAddr 2 (scaledImm 3 imm) s, 8)
  | .lrW _ rs1 _ _ => some (readX rs1 s, 4)
  | .lrD _ rs1 _ _ => some (readX rs1 s, 8)
  | _ => none

/-- The virtual address and the width of a store. -/
def storeAccess (i : Instr) (s : State) : Option (Word × Nat) :=
  match i with
  | .sb rs1 _ imm => some (effAddr rs1 (sextImm imm) s, 1)
  | .sh rs1 _ imm => some (effAddr rs1 (sextImm imm) s, 2)
  | .sw rs1 _ imm | .fsw rs1 _ imm => some (effAddr rs1 (sextImm imm) s, 4)
  | .sd rs1 _ imm | .fsd rs1 _ imm => some (effAddr rs1 (sextImm imm) s, 8)
  | .cSw rs1 _ imm | .cFsw rs1 _ imm => some (effAddr (wide rs1) (scaledImm 2 imm) s, 4)
  | .cSd rs1 _ imm | .cFsd rs1 _ imm => some (effAddr (wide rs1) (scaledImm 3 imm) s, 8)
  | .cSwsp _ imm | .cFswsp _ imm => some (effAddr 2 (scaledImm 2 imm) s, 4)
  | .cSdsp _ imm | .cFsdsp _ imm => some (effAddr 2 (scaledImm 3 imm) s, 8)
  | _ => none

/-- The virtual address and the width of an SC or an AMO. -/
def atomicAccess (i : Instr) (s : State) : Option (Word × Nat) :=
  match i with
  | .scW _ rs1 _ _ _ => some (readX rs1 s, 4)
  | .scD _ rs1 _ _ _ => some (readX rs1 s, 8)
  | _ => (amoForm i).map (fun (n, _, _, rs1, _) => (readX rs1 s, n))

/-- The instructions with a rounding-mode field, and the field (47_float_f.md rule R665). -/
def roundingField (i : Instr) : Option Rm :=
  match i with
  | .faddS _ _ _ rm | .fsubS _ _ _ rm | .fmulS _ _ _ rm | .fdivS _ _ _ rm | .fsqrtS _ _ rm => some rm
  | .fmaddS _ _ _ _ rm | .fmsubS _ _ _ _ rm | .fnmsubS _ _ _ _ rm | .fnmaddS _ _ _ _ rm => some rm
  | .fcvtWS _ _ rm | .fcvtWuS _ _ rm | .fcvtLS _ _ rm | .fcvtLuS _ _ rm => some rm
  | .fcvtSW _ _ rm | .fcvtSWu _ _ rm | .fcvtSL _ _ rm | .fcvtSLu _ _ rm => some rm
  | .faddD _ _ _ rm | .fsubD _ _ _ rm | .fmulD _ _ _ rm | .fdivD _ _ _ rm | .fsqrtD _ _ rm => some rm
  | .fmaddD _ _ _ _ rm | .fmsubD _ _ _ _ rm | .fnmsubD _ _ _ _ rm | .fnmaddD _ _ _ _ rm => some rm
  | .fcvtSD _ _ rm | .fcvtDS _ _ rm => some rm
  | .fcvtWD _ _ rm | .fcvtWuD _ _ rm | .fcvtLD _ _ rm | .fcvtLuD _ _ rm => some rm
  | .fcvtDW _ _ rm | .fcvtDWu _ _ rm | .fcvtDL _ _ rm | .fcvtDLu _ _ rm => some rm
  | _ => none

/-- The instructions `mstatus.FS` enables (47_float_f.md rule R663), but for the CSR instructions. -/
def isFp (i : Instr) : Bool :=
  match i with
  | .flw _ _ _ | .fsw _ _ _ | .fld _ _ _ | .fsd _ _ _ => true
  | .fsgnjS _ _ _ | .fsgnjnS _ _ _ | .fsgnjxS _ _ _ | .fsgnjD _ _ _ | .fsgnjnD _ _ _ | .fsgnjxD _ _ _ => true
  | .fminS _ _ _ | .fmaxS _ _ _ | .fminD _ _ _ | .fmaxD _ _ _ => true
  | .feqS _ _ _ | .fltS _ _ _ | .fleS _ _ _ | .feqD _ _ _ | .fltD _ _ _ | .fleD _ _ _ => true
  | .fclassS _ _ | .fclassD _ _ | .fmvXW _ _ | .fmvWX _ _ | .fmvXD _ _ | .fmvDX _ _ => true
  | .cFlw _ _ _ | .cFsw _ _ _ | .cFld _ _ _ | .cFsd _ _ _ => true
  | .cFlwsp _ _ | .cFswsp _ _ | .cFldsp _ _ | .cFsdsp _ _ => true
  | _ => (roundingField i).isSome

end Sys2Proof.Machine
end

