-- ==== Sys2Proof/Certificates/Slice0/Obligations.lean ====
section
/-!
DEFINITION. Certificates/Slice0/Obligations.lean: the statements about the model, each formalising what the rules its
docstring names say. The words they use are defined in Safety.lean. A statement over every state holds in every build
(00_scope.md rule R9), since the build stands in the state.
-/

open Sys2Proof Sys2Proof.Machine

/-! ### Encodings -/

/-- 30_encoding.md rules R333, R340 to R346, R350 to R358, R380 to R385: the decoder reads every operand of every
instruction of the build back from its encoding. -/
def Obligations.DecodeOfEncode : Prop :=
  ∀ (xl : Xlen) (i : Instr), i.wf xl = true → decodeWord xl (encode i).bits = .ok i

/-- 30_encoding.md rules R330 to R332: what the decoder reads from a word is an instruction of the build, and its
encoding is that word: all 32 bits, or the low parcel of a compressed one. -/
def Obligations.EncodeOfDecode : Prop :=
  ∀ (xl : Xlen) (w : BitVec 32) (i : Instr), decodeWord xl w = .ok i →
    i.wf xl = true
    ∧ (w.extractLsb' 0 2 = 3#2 → encode i = .word w)
    ∧ (w.extractLsb' 0 2 ≠ 3#2 → encode i = .parcel (w.extractLsb' 0 16))

/-- The words of the examples of 45_muldiv.md rule R591, 42_control.md rules R501 and R505, 44_system.md rules R573 and
R559, 46_atomics.md rule R650, 47_float_f.md rule R687, and the parcel of 49_compressed.md rule R833, in this order,
decode to the instructions they stand for. -/
def Obligations.HandWrittenWordsDecode : Prop :=
  decodeWord .rv64 0x02C58533#32 = .ok (.mul 10 11 12)
  ∧ decodeWord .rv64 0x010000EF#32 = .ok (.jal 1 8)
  ∧ decodeWord .rv64 0xFEB51CE3#32 = .ok (.bne 10 11 (-4))
  ∧ decodeWord .rv32 0x30529073#32 = .ok (.csrrw 0 5 0x305)
  ∧ decodeWord .rv32 0x12B50073#32 = .ok (.sfenceVma 10 11)
  ∧ decodeWord .rv64 0x0C6522AF#32 = .ok (.amoswapW 5 10 6 1 0)
  ∧ decodeWord .rv64 0xA0C59553#32 = .ok (.fltS 10 11 12)
  ∧ decodeWord .rv64 0x00009002#32 = .ok .cEbreak

/-! ### The step -/

/-- 40_step.md rules R420, R422, R426, R427 and 20_memory.md rule R263: a Running hart that takes no interrupt and whose
front half gives an instruction runs exactly that instruction, with `npc` set to the address after it; a line present at
`pc` that the draw uses gives its own instruction without a fetch. What follows is the icache fill and the retire: a
miss fills the line at `pc` and no other, also after a trap where the draw says so; a hit or a reserved encoding fills
none. -/
def Obligations.StepRunsFetchedInstruction : Prop :=
  (∀ (s s0 s1 : State), s.runState = .running → s0 = beginStep (nextInput s) s → interruptScan s0 = none →
    s1 = duringStep (nextInput s) s0 →
    (∀ i line hit, fetchDecode (nextInput s).useIcache s1 = .instr i line hit →
      step s = finish i line hit (nextInput s).fillAfterTrap (exec i { s1 with npc := linkAddr line.len s1 }))
    ∧ (∀ line, s1.pc.toNat % 2 = 0 → s1.cfg.icacheEnabled = true → mapLookup s1.pc.toNat s1.icache = some line →
        (nextInput s).useIcache = true →
        (∀ i, decodeWord s1.cfg.xlen line.word = .ok i →
          step s = finish i line true (nextInput s).fillAfterTrap (exec i { s1 with npc := linkAddr line.len s1 }))
        ∧ (∀ d, decodeWord s1.cfg.xlen line.word = .error d →
          step s = .next (retire false (deliver ⟨.illegalInstr, line.word.setWidth 64⟩ s1))))
    ∧ ∀ len, (linkAddr len s1).toNat = (s1.pc.toNat + len) % 2 ^ s1.cfg.xlen.bits)
  ∧ ∀ (i : Instr) (line : IcacheLine) (hit fillAfterTrap : Bool) (t : State),
    let fills := t.cfg.icacheEnabled = true ∧ hit = false ∧ (∀ w, i ≠ .cIllegal w)
      ∧ (t.trapPending = false ∨ fillAfterTrap = true)
    ∃ u, finish i line hit fillAfterTrap (.next t) = .next (retire true u) ∧ u = { t with icache := u.icache }
      ∧ (fills → mapLookup t.pc.toNat u.icache = some line
        ∧ ∀ a, a ≠ t.pc.toNat → mapLookup a u.icache = mapLookup a t.icache)
      ∧ (¬fills → u.icache = t.icache)

/-- 40_step.md rules R420 to R428: when the bytes at the program counter are the encoding of an instruction of the
build and no icache line that the draw uses hides them, the step runs exactly that instruction. Both parcels are
translated and checked each by itself (rule R423), and each is read as it stands when its own bus access is made. -/
def Obligations.StepRunsBytesAtPc : Prop :=
  ∀ (s s0 s1 : State) (i : Instr) (pa0 pa1 : Nat), s.runState = .running → s0 = beginStep (nextInput s) s →
    interruptScan s0 = none → s1 = duringStep (nextInput s) s0 → i.wf s1.cfg.xlen = true → s1.pc.toNat % 2 = 0 →
    (s1.cfg.icacheEnabled = false ∨ mapLookup s1.pc.toNat s1.icache = none ∨ (nextInput s).useIcache = false) →
    translate .fetch .fetchLow s1.pc s1 = .ok pa0 → pmpOk .fetch pa0 2 s1 = true → InRam pa0 2 s1 →
    (∀ k, k < 2 → seenByte .fetchLow none s1 (pa0 + k) = (encode i).bytes.getD k 0) →
    ((encode i).len = 4 →
      translate .fetch .fetchHigh (norm s1.cfg.xlen (s1.pc + 2)) s1 = .ok pa1 ∧ pmpOk .fetch pa1 2 s1 = true
      ∧ InRam pa1 2 s1
      ∧ ∀ k, k < 2 → seenByte .fetchHigh none s1 (pa1 + k) = (encode i).bytes.getD (2 + k) 0) →
    step s = finish i ⟨(encode i).len, (encode i).bits⟩ false (nextInput s).fillAfterTrap
      (exec i { s1 with npc := linkAddr (encode i).len s1 })

/-- 40_step.md rule R428: retire takes `pc` from `npc`, advances `minstret` exactly when an instruction was executed,
no trap is pending and the instruction did not write `minstret`, advances `mcycle` unless the instruction wrote it,
both modulo 2^64, and leaves no trap pending. That the poll counter counts every step here is the model's choice (log
entry 19). -/
def Obligations.RetireAdvancesPcAndCounters : Prop :=
  ∀ (executed : Bool) (s : State),
    (retire executed s).pc = s.npc
    ∧ (executed = true → s.trapPending = false → s.wroteMinstret = false →
        (retire executed s).minstret.toNat = (s.minstret.toNat + 1) % 2 ^ 64)
    ∧ (executed = false ∨ s.trapPending = true ∨ s.wroteMinstret = true →
        (retire executed s).minstret = s.minstret)
    ∧ (s.wroteMcycle = false → (retire executed s).mcycle.toNat = (s.mcycle.toNat + 1) % 2 ^ 64)
    ∧ (s.wroteMcycle = true → (retire executed s).mcycle = s.mcycle)
    ∧ (retire executed s).trapPending = false
    ∧ (retire executed s).pollCounter = s.pollCounter + 1

/-- 40_step.md rules R421, R423, R425, 20_memory.md rules R217, R218: an odd `pc` raises InstrAddrMisaligned with `pc`
as trap value before anything else. A parcel whose fetch fails raises InstrPageFault or InstrAccessFault, by what fails,
with the parcel's own address as trap value: `pc`, or, where the first parcel ends in 11, `pc + 2` modulo 2^XLEN. A
32-bit word no pattern matches raises IllegalInstr with the word as trap value. Each ends the step at the trap, without
an executed instruction. -/
def Obligations.FrontEndTraps : Prop :=
  ∀ (s s0 s1 : State), s.runState = .running → s0 = beginStep (nextInput s) s → interruptScan s0 = none →
    s1 = duringStep (nextInput s) s0 →
    let Traps (c : Cause) (tval : Word) : Prop := step s = .next (retire false (deliver ⟨c, tval⟩ s1))
    (s1.pc.toNat % 2 = 1 → Traps .instrAddrMisaligned s1.pc)
    ∧ (s1.pc.toNat % 2 = 0 →
        (s1.cfg.icacheEnabled = false ∨ mapLookup s1.pc.toNat s1.icache = none ∨ (nextInput s).useIcache = false) →
        (∀ e, fetchWord s1 = .error e → step s = .next (retire false (deliver e s1)))
        ∧ (∀ line d, fetchWord s1 = .ok line → decodeWord s1.cfg.xlen line.word = .error d →
            Traps .illegalInstr (line.word.setWidth 64))
        ∧ (∀ c, ParcelFails .fetchLow s1.pc c s1 → Traps c s1.pc)
        ∧ ∀ (p : Nat) (next : Word), ParcelReads .fetchLow s1.pc p s1 → p % 4 = 3 →
            next.toNat = (s1.pc.toNat + 2) % 2 ^ s1.cfg.xlen.bits →
            (∀ c, ParcelFails .fetchHigh next c s1 → Traps c next)
            ∧ ∀ p' d, ParcelReads .fetchHigh next p' s1 →
                decodeWord s1.cfg.xlen (BitVec.ofNat 32 (p + 2 ^ 16 * p')) = .error d →
                Traps .illegalInstr (BitVec.ofNat 64 (p + 2 ^ 16 * p')))

/-- 40_step.md rule R433: only a Running hart steps; in Idle, Error, Breakpoint and Halt a step changes nothing and is
refused. A Running hart always answers a next state (rule R432: no architectural input reaches an engine fault).
What arrives before a step (rule R435): a line call writes one `mip` bit (60_exceptions.md rule R905), stores of other
agents change memory regions alone, the uptime never goes back (10_state.md rule R107), a deadline fires only once the
uptime has reached it (60_exceptions.md rule R906), reservations go only where `RESV_SPURIOUS` holds (46_atomics.md rule
R622). What arrives during a step (rule R420): line calls, and stores that a bus access sees from its place on. The
draws stand in `env`, which is the model's own (log entry 5). -/
def Obligations.StepsAndArrivals : Prop :=
  (∀ s : State, (s.runState ≠ .running → step s = .refused .hartNotRunning)
    ∧ (s.runState = .running → ∃ t, step s = .next t)
    ∧ ∀ i rest, s.env = i :: rest → nextInput s = i)
  ∧ (∀ (i : StepInput) (s : State),
    let t := beginStep i s
    let fires : Prop := ∃ d, s.timerDeadline = some d ∧ d.toNat ≤ t.uptime.toNat ∧ i.timerWaits = false
    (∀ k, k < 64 → (k = 5 → ¬fires) → bit t.mip k = lineAfter i.lines k (bit s.mip k))
    ∧ (fires → bit t.mip 5 = true ∧ t.timerDeadline = none) ∧ (¬fires → t.timerDeadline = s.timerDeadline)
    ∧ t.uptime.toNat = min (s.uptime.toNat + i.advance.toNat) (2 ^ 64 - 1)
    ∧ (∀ e, e ∈ t.resv → e ∈ s.resv) ∧ (s.cfg.resvSpurious = false → t.resv = s.resv)
    ∧ (∀ a, readByte t.mem a = byteAfter i.busWrites s a)
    ∧ t = { s with
        env := s.env.tail, former := [], trapPending := false, wroteMcycle := false, wroteMinstret := false
        mip := t.mip, mem := t.mem, resv := t.resv, uptime := t.uptime, timerDeadline := t.timerDeadline })
  ∧ ∀ (i : StepInput) (s : State),
    let t := duringStep i s
    (∀ k, k < 64 → bit t.mip k = lineAfter i.lateLines k (bit s.mip k))
    ∧ (∀ a, readByte t.mem a = byteAfter (i.lateWrites.map (·.2)) s a)
    ∧ t = { s with mip := t.mip, mem := t.mem, former := t.former }
    ∧ (s.former = [] → i.lateWrites.Pairwise (fun p q => p.1 ≤ q.1) → ∀ slot level a, accessRank slot level < 17 →
        seenByte slot level t a
          = byteAfter ((i.lateWrites.filter (fun w => decide (w.1 ≤ accessRank slot level))).map (·.2)) s a)
    ∧ ∀ a, seenByte .data none t a = readByte t.mem a

/-- Every step keeps the invariant of Safety.lean: the CSRs hold only what 10_state.md rules R70 to R100 let through,
MPP is a mode and SD says whether FS is Dirty, no register is wider than XLEN, the word of `x0` is 0, memory, the
reservation table and the icache are in canonical form, and nothing is pending between steps (rule R48). -/
def Obligations.StepKeepsInv : Prop := ∀ s t : State, s.Inv → step s = .next t → t.Inv

/-- The state after reset, of every build and every entry address that fits it, satisfies the invariant. -/
def Obligations.ResetInv : Prop :=
  ∀ (cfg : Build) (entry : Word), Fits cfg.xlen entry → (State.resetOf cfg entry).Inv

/-- 10_state.md rule R120: the values after reset. -/
def Obligations.ResetValues : Prop :=
  ∀ (cfg : Build) (entry : Word),
    let s := State.resetOf cfg entry
    (∀ r, readX r s = 0) ∧ (∀ r, readF r s = 0) ∧ s.pc = entry ∧ s.npc = entry ∧ s.priv = .machine
    ∧ s.runState = .running ∧ s.haltCode = 0 ∧ s.haltPc = 0 ∧ s.trapPending = false
    ∧ s.mstatus = (match cfg.xlen with | .rv32 => 0 | .rv64 => 0x0000000A00000000)
    ∧ s.misa = (match cfg.xlen with | .rv32 => 0x4014112D | .rv64 => 0x800000000014112D)
    ∧ csrRead .mhartid s = BitVec.ofNat 64 cfg.hartId ∧ s.stimecmp.toNat = 2 ^ 64 - 1
    ∧ (∀ a c, Csr.ofAddr cfg.xlen a = some c →
        c ∉ [Csr.mstatus, .sstatus, .misa, .mhartid, .stimecmp, .stimecmph, .time, .timeh] → csrRead c s = 0)
    ∧ (∀ i, pmpRange s i = none) ∧ s.resv = [] ∧ s.icache = [] ∧ s.pollCounter = 0

/-! ### What no instruction, or only some, may change -/

/-- 40_step.md rules R428, R432, R433 and 00_scope.md rule R9: every instruction answers a next state in every state,
and none changes the build, `pc`, the uptime, the poll counter or the draws; only the Halt instruction
(44_system.md rule R557) changes the run-state and the halt registers, and only a CSR write registers a deadline. -/
def Obligations.ExecKeepsMachine : Prop :=
  ∀ (i : Instr) (s : State), ∃ t, exec i s = .next t ∧ t.cfg = s.cfg ∧ t.pc = s.pc ∧ t.uptime = s.uptime
    ∧ t.pollCounter = s.pollCounter ∧ t.draws = s.draws ∧ t.env = s.env ∧ t.former = s.former
    ∧ (i ≠ .ebreak → i ≠ .cEbreak → t.runState = s.runState ∧ t.haltCode = s.haltCode ∧ t.haltPc = s.haltPc)
    ∧ (isCsrInstr i = false → t.timerDeadline = s.timerDeadline)

/-- 20_memory.md rules R261 and R262: an instruction leaves the icache as it is, or it is FENCE.I, or SFENCE.VMA
outside User mode, and every line becomes invalid. -/
def Obligations.IcacheChangesOnlyByFences : Prop :=
  ∀ (i : Instr) (s t : State), exec i s = .next t →
    ((∃ imm rs1 rd, i = .fenceI imm rs1 rd) ∨ (s.priv ≠ .user ∧ ∃ rs1 rs2, i = .sfenceVma rs1 rs2) →
      t.icache = [])
    ∧ (¬((∃ imm rs1 rd, i = .fenceI imm rs1 rd) ∨ (s.priv ≠ .user ∧ ∃ rs1 rs2, i = .sfenceVma rs1 rs2)) →
      t.icache = s.icache)

/-- 10_state.md rule R45: the mode changes only through trap delivery, MRET and SRET; trap delivery never lowers it
(60_exceptions.md rule R871), and MRET and SRET never raise it. -/
def Obligations.PrivilegeChangesOnlyByTrapsAndReturns : Prop :=
  ∀ (i : Instr) (s t : State), s.trapPending = false → exec i s = .next t →
    (t.trapPending = true → s.priv.level ≤ t.priv.level)
    ∧ (t.trapPending = false → t.priv = s.priv ∨ ((i = .mret ∨ i = .sret) ∧ t.priv.level ≤ s.priv.level))

/-- 20_memory.md rule R214: memory changes only by a store, an SC or an AMO, and only in the bytes of its access. -/
def Obligations.MemoryChangesOnlyByStores : Prop :=
  ∀ (i : Instr) (s t : State), exec i s = .next t →
    (storeAccess i s = none → atomicAccess i s = none → t.mem = s.mem)
    ∧ (∀ ea n, storeAccess i s = some (ea, n) ∨ atomicAccess i s = some (ea, n) →
        (∀ pa, translate .store .data ea s = .ok pa → SameMemoryOutside pa n s t)
        ∧ (∀ k, translate .store .data ea s = .error k → t.mem = s.mem))

/-- 44_system.md rule R570, 60_exceptions.md rule R874, 46_atomics.md rule R622: an instruction that is no CSR
instruction changes no CSR that a trap does not write but `fcsr`, which FlagsAreSticky speaks of, and the saved `pc`, the
cause and the trap value of both levels only where it traps; one that is neither LR nor SC leaves the reservation table
as it is. -/
def Obligations.SpecialStateChangesOnlyByItsInstructions : Prop :=
  ∀ (i : Instr) (s t : State), isCsrInstr i = false → exec i s = .next t →
    t.misa = s.misa ∧ t.medeleg = s.medeleg ∧ t.medelegh = s.medelegh ∧ t.mideleg = s.mideleg ∧ t.mie = s.mie
    ∧ t.mip = s.mip ∧ t.mtvec = s.mtvec ∧ t.stvec = s.stvec ∧ t.mcounteren = s.mcounteren
    ∧ t.scounteren = s.scounteren ∧ t.mscratch = s.mscratch ∧ t.sscratch = s.sscratch ∧ t.satp = s.satp
    ∧ t.stimecmp = s.stimecmp ∧ t.pmpcfg = s.pmpcfg ∧ t.pmpaddr = s.pmpaddr ∧ t.mcycle = s.mcycle
    ∧ t.minstret = s.minstret
    ∧ (s.trapPending = false → t.trapPending = false → t.mepc = s.mepc ∧ t.mcause = s.mcause ∧ t.mtval = s.mtval
        ∧ t.sepc = s.sepc ∧ t.scause = s.scause ∧ t.stval = s.stval)
    ∧ (isReservation i = false → t.resv = s.resv)

/-- 47_float_f.md rule R664: the exception flags are sticky: an instruction that is no CSR instruction clears none, and
leaves the rounding mode alone; one that FS does not enable leaves all of `fcsr`, `f` and FS alone. -/
def Obligations.FlagsAreSticky : Prop :=
  ∀ (i : Instr) (s t : State), isCsrInstr i = false → exec i s = .next t →
    t.fcsr &&& s.fcsr = s.fcsr ∧ t.fcsr.extractLsb' 5 3 = s.fcsr.extractLsb' 5 3
    ∧ (isFp i = false → t.fcsr = s.fcsr ∧ t.f = s.f ∧ mstatusFS t = mstatusFS s)

/-- 10_state.md rules R63, R64 and 44_system.md rules R555 to R559: an instruction that User mode executes without a
trap keeps User mode, every CSR but `fcsr` and the FS and SD bits of `mstatus`, the icache (but for FENCE.I) and the
counters' values. -/
def Obligations.UserModeIsConfined : Prop :=
  ∀ (i : Instr) (s t : State), s.priv = .user → s.trapPending = false → exec i s = .next t → t.trapPending = false →
    t.priv = .user
    ∧ (∀ c : Csr, c ∉ [Csr.fflags, .frm, .fcsr, .mstatus, .sstatus] → csrRead c t = csrRead c s)
    ∧ (∀ k, k < 64 → k ≠ 13 → k ≠ 14 → k ≠ s.cfg.xlen.bits - 1 →
        bit t.mstatus k = bit s.mstatus k)
    ∧ ((∀ imm rs1 rd, i ≠ .fenceI imm rs1 rd) → t.icache = s.icache)

/-! ### Integer computation -/

/-- 41_integer.md rules R451 to R458, 49_compressed.md rules R790, R800, R801, R804 to R806, R809: the results of the
instructions with an immediate, and their frame. A write to `x0` is discarded (10_state.md rule R41). -/
def Obligations.ImmediateResults : Prop :=
  ∀ (rd rs1 : Reg) (imm : BitVec 12) (up : BitVec 20) (crd : CReg) (c8 : BitVec 8) (c6 : BitVec 6) (s : State),
    GivesX (.lui rd up) rd (4096 * up.toInt) s
    ∧ GivesX (.auipc rd up) rd (s.pc.toNat + 4096 * up.toInt) s
    ∧ GivesX (.addi rd rs1 imm) rd (regU rs1 s + imm.toInt) s
    ∧ GivesX (.slti rd rs1 imm) rd (ofProp (regS rs1 s < imm.toInt)) s
    ∧ GivesX (.sltiu rd rs1 imm) rd (ofProp ((regU rs1 s : Int) < wrapX imm.toInt s)) s
    ∧ GivesX (.xori rd rs1 imm) rd (regU rs1 s ^^^ (wrapX imm.toInt s).toNat : Nat) s
    ∧ GivesX (.ori rd rs1 imm) rd (regU rs1 s ||| (wrapX imm.toInt s).toNat : Nat) s
    ∧ GivesX (.andi rd rs1 imm) rd (regU rs1 s &&& (wrapX imm.toInt s).toNat : Nat) s
    ∧ GivesX (.cAddi4spn crd c8) (wide crd) (regU 2 s + 4 * c8.toNat) s
    ∧ GivesX (.cNop c6) 0 0 s
    ∧ GivesX (.cAddi rd c6) rd (regU rd s + c6.toInt) s
    ∧ GivesX (.cLi rd c6) rd c6.toInt s
    ∧ GivesX (.cAddi16sp c6) 2 (regU 2 s + 16 * c6.toInt) s
    ∧ GivesX (.cLui rd c6) rd (4096 * c6.toInt) s
    ∧ GivesX (.cAndi crd c6) (wide crd) (regU (wide crd) s &&& (wrapX c6.toInt s).toNat : Nat) s

/-- 41_integer.md rules R459 to R461, R464, R468, R469, 49_compressed.md rules R807, R808, R820: shifts by an immediate
and by the low 5 or 6 bits of a register; an arithmetic right shift divides the signed reading, rounding down. -/
def Obligations.ShiftResults : Prop :=
  ∀ (rd rs1 rs2 : Reg) (crd : CReg) (sh : BitVec 6) (s : State),
    GivesX (.slli rd rs1 sh) rd (regU rs1 s * 2 ^ sh.toNat) s
    ∧ GivesX (.srli rd rs1 sh) rd (regU rs1 s / 2 ^ sh.toNat) s
    ∧ GivesX (.srai rd rs1 sh) rd (regS rs1 s / 2 ^ sh.toNat) s
    ∧ GivesX (.sll rd rs1 rs2) rd (regU rs1 s * 2 ^ (regU rs2 s % s.cfg.xlen.bits)) s
    ∧ GivesX (.srl rd rs1 rs2) rd (regU rs1 s / 2 ^ (regU rs2 s % s.cfg.xlen.bits)) s
    ∧ GivesX (.sra rd rs1 rs2) rd (regS rs1 s / 2 ^ (regU rs2 s % s.cfg.xlen.bits)) s
    ∧ GivesX (.cSlli rd sh) rd (regU rd s * 2 ^ sh.toNat) s
    ∧ GivesX (.cSrli crd sh) (wide crd) (regU (wide crd) s / 2 ^ sh.toNat) s
    ∧ GivesX (.cSrai crd sh) (wide crd) (regS (wide crd) s / 2 ^ sh.toNat) s

/-- 41_integer.md rules R462, R463, R465 to R467, R470, R471, 49_compressed.md rules R810 to R813, R831, R834: the
results of the register forms. -/
def Obligations.RegisterResults : Prop :=
  ∀ (rd rs1 rs2 : Reg) (crd crs2 : CReg) (s : State),
    GivesX (.add rd rs1 rs2) rd (regU rs1 s + regU rs2 s) s
    ∧ GivesX (.sub rd rs1 rs2) rd (regU rs1 s - regU rs2 s) s
    ∧ GivesX (.slt rd rs1 rs2) rd (ofProp (regS rs1 s < regS rs2 s)) s
    ∧ GivesX (.sltu rd rs1 rs2) rd (ofProp (regU rs1 s < regU rs2 s)) s
    ∧ GivesX (.xor rd rs1 rs2) rd (regU rs1 s ^^^ regU rs2 s : Nat) s
    ∧ GivesX (.or rd rs1 rs2) rd (regU rs1 s ||| regU rs2 s : Nat) s
    ∧ GivesX (.and rd rs1 rs2) rd (regU rs1 s &&& regU rs2 s : Nat) s
    ∧ GivesX (.cMv rd rs2) rd (regU rs2 s) s
    ∧ GivesX (.cAdd rd rs2) rd (regU rd s + regU rs2 s) s
    ∧ GivesX (.cSub crd crs2) (wide crd) (regU (wide crd) s - regU (wide crs2) s) s
    ∧ GivesX (.cXor crd crs2) (wide crd) (regU (wide crd) s ^^^ regU (wide crs2) s : Nat) s
    ∧ GivesX (.cOr crd crs2) (wide crd) (regU (wide crd) s ||| regU (wide crs2) s : Nat) s
    ∧ GivesX (.cAnd crd crs2) (wide crd) (regU (wide crd) s &&& regU (wide crs2) s : Nat) s

/-- 41_integer.md rules R472 to R480, 49_compressed.md rules R803, R814, R815: the `*W` forms compute in 32 bits and
sign-extend the result. -/
def Obligations.WordResults : Prop :=
  ∀ (rd rs1 rs2 : Reg) (imm : BitVec 12) (sh : BitVec 5) (crd crs2 : CReg) (c6 : BitVec 6) (s : State),
    GivesX (.addiw rd rs1 imm) rd (wrap32 (lowU rs1 s + imm.toInt)) s
    ∧ GivesX (.slliw rd rs1 sh) rd (wrap32 (lowU rs1 s * 2 ^ sh.toNat)) s
    ∧ GivesX (.srliw rd rs1 sh) rd (wrap32 (lowU rs1 s / 2 ^ sh.toNat)) s
    ∧ GivesX (.sraiw rd rs1 sh) rd (lowS rs1 s / 2 ^ sh.toNat) s
    ∧ GivesX (.addw rd rs1 rs2) rd (wrap32 (lowU rs1 s + lowU rs2 s)) s
    ∧ GivesX (.subw rd rs1 rs2) rd (wrap32 (lowU rs1 s - lowU rs2 s)) s
    ∧ GivesX (.sllw rd rs1 rs2) rd (wrap32 (lowU rs1 s * 2 ^ (lowU rs2 s % 32))) s
    ∧ GivesX (.srlw rd rs1 rs2) rd (wrap32 (lowU rs1 s / 2 ^ (lowU rs2 s % 32))) s
    ∧ GivesX (.sraw rd rs1 rs2) rd (lowS rs1 s / 2 ^ (lowU rs2 s % 32)) s
    ∧ GivesX (.cAddiw rd c6) rd (wrap32 (lowU rd s + c6.toInt)) s
    ∧ GivesX (.cSubw crd crs2) (wide crd) (wrap32 (lowU (wide crd) s - lowU (wide crs2) s)) s
    ∧ GivesX (.cAddw crd crs2) (wide crd) (wrap32 (lowU (wide crd) s + lowU (wide crs2) s)) s

/-- 45_muldiv.md rules R591 to R603: the low half of a product, the high half of the signed, mixed and unsigned exact
product, quotients and remainders with the fixed results of a division by zero and of the signed overflow, and the
32-bit forms, sign-extended: none raises. -/
def Obligations.MultiplyDivideResults : Prop :=
  ∀ (rd rs1 rs2 : Reg) (s : State),
    GivesX (.mul rd rs1 rs2) rd (regU rs1 s * regU rs2 s) s
    ∧ GivesX (.mulh rd rs1 rs2) rd (regS rs1 s * regS rs2 s / 2 ^ s.cfg.xlen.bits) s
    ∧ GivesX (.mulhsu rd rs1 rs2) rd (regS rs1 s * regU rs2 s / 2 ^ s.cfg.xlen.bits) s
    ∧ GivesX (.mulhu rd rs1 rs2) rd (regU rs1 s * regU rs2 s / 2 ^ s.cfg.xlen.bits) s
    ∧ GivesX (.mulw rd rs1 rs2) rd (wrap32 (lowU rs1 s * lowU rs2 s)) s
    ∧ GivesX (.div rd rs1 rs2) rd
      (if regS rs2 s = 0 then -1
       else if regS rs1 s = -2 ^ (s.cfg.xlen.bits - 1) ∧ regS rs2 s = -1 then regS rs1 s
       else (regS rs1 s).tdiv (regS rs2 s)) s
    ∧ GivesX (.divu rd rs1 rs2) rd (if regU rs2 s = 0 then 2 ^ s.cfg.xlen.bits - 1 else regU rs1 s / regU rs2 s) s
    ∧ GivesX (.rem rd rs1 rs2) rd
      (if regS rs2 s = 0 then regS rs1 s
       else if regS rs1 s = -2 ^ (s.cfg.xlen.bits - 1) ∧ regS rs2 s = -1 then 0
       else (regS rs1 s).tmod (regS rs2 s)) s
    ∧ GivesX (.remu rd rs1 rs2) rd (if regU rs2 s = 0 then regU rs1 s else regU rs1 s % regU rs2 s) s
    ∧ GivesX (.divw rd rs1 rs2) rd
      (if lowS rs2 s = 0 then -1
       else if lowS rs1 s = -2 ^ 31 ∧ lowS rs2 s = -1 then lowS rs1 s
       else (lowS rs1 s).tdiv (lowS rs2 s)) s
    ∧ GivesX (.divuw rd rs1 rs2) rd
      (if lowU rs2 s = 0 then -1 else wrap32 (lowU rs1 s / lowU rs2 s)) s
    ∧ GivesX (.remw rd rs1 rs2) rd
      (if lowS rs2 s = 0 then lowS rs1 s
       else if lowS rs1 s = -2 ^ 31 ∧ lowS rs2 s = -1 then 0
       else (lowS rs1 s).tmod (lowS rs2 s)) s
    ∧ GivesX (.remuw rd rs1 rs2) rd
      (if lowU rs2 s = 0 then wrap32 (lowU rs1 s) else wrap32 (lowU rs1 s % lowU rs2 s)) s

/-- 45_muldiv.md rule R604: the laws that tie the results together, for a destination other than `x0`: quotient times
divisor plus remainder is the dividend modulo 2^XLEN, the remainder is smaller than the divisor and is 0 or has the
dividend's sign, and the two halves of a product make the exact product. The 32-bit forms keep the first two laws in
32 bits. -/
def Obligations.DivisionAndProductLaws : Prop :=
  (∀ (rd rs1 rs2 : Reg) (s q r qu ru lo hs hu : State), rd ≠ 0 →
    exec (.div rd rs1 rs2) s = .next q → exec (.rem rd rs1 rs2) s = .next r →
    exec (.divu rd rs1 rs2) s = .next qu → exec (.remu rd rs1 rs2) s = .next ru →
    exec (.mul rd rs1 rs2) s = .next lo → exec (.mulh rd rs1 rs2) s = .next hs →
    exec (.mulhu rd rs1 rs2) s = .next hu →
    (regU rs2 s ≠ 0 →
      (regS rd q * regS rs2 s + regS rd r) % 2 ^ s.cfg.xlen.bits = regS rs1 s % 2 ^ s.cfg.xlen.bits
      ∧ |regS rd r| < |regS rs2 s|
      ∧ (regS rd r = 0 ∨ (regS rd r < 0 ↔ regS rs1 s < 0))
      ∧ regU rd qu * regU rs2 s + regU rd ru = regU rs1 s ∧ regU rd ru < regU rs2 s)
    ∧ regS rs1 s * regS rs2 s = regS rd hs * 2 ^ s.cfg.xlen.bits + regU rd lo
    ∧ regU rs1 s * regU rs2 s = regU rd hu * 2 ^ s.cfg.xlen.bits + regU rd lo)
  ∧ ∀ (rd rs1 rs2 : Reg) (s q r qu ru : State), rd ≠ 0 →
    exec (.divw rd rs1 rs2) s = .next q → exec (.remw rd rs1 rs2) s = .next r →
    exec (.divuw rd rs1 rs2) s = .next qu → exec (.remuw rd rs1 rs2) s = .next ru → lowU rs2 s ≠ 0 →
      (lowS rd q * lowS rs2 s + lowS rd r) % 2 ^ 32 = lowS rs1 s % 2 ^ 32
      ∧ |lowS rd r| < |lowS rs2 s|
      ∧ (lowS rd r = 0 ∨ (lowS rd r < 0 ↔ lowS rs1 s < 0))
      ∧ lowU rd qu * lowU rs2 s + lowU rd ru = lowU rs1 s ∧ lowU rd ru < lowU rs2 s

/-! ### Control transfer -/

/-- 42_control.md rules R500 to R503, 49_compressed.md rules R802, R816, R830, R832: the link value is the address
after the jump, the target is relative to the jump's own address or read from `x[rs1]` before `rd` is written, with
bit 0 cleared, both modulo 2^XLEN; nothing else changes and nothing is raised. -/
def Obligations.JumpResults : Prop :=
  ∀ (rd rs1 : Reg) (off : BitVec 20) (imm : BitVec 12) (c11 : BitVec 11) (s : State),
    GivesJump (.jal rd off) rd (s.pc.toNat + 4) (s.pc.toNat + 2 * off.toInt) s
    ∧ GivesJump (.jalr rd rs1 imm) rd (s.pc.toNat + 4) ((regU rs1 s + imm.toInt) / 2 * 2) s
    ∧ GivesJump (.cJal c11) 1 (s.pc.toNat + 2) (s.pc.toNat + 2 * c11.toInt) s
    ∧ GivesJump (.cJ c11) 0 0 (s.pc.toNat + 2 * c11.toInt) s
    ∧ GivesJump (.cJr rs1) 0 0 (regU rs1 s / 2 * 2 : Nat) s
    ∧ GivesJump (.cJalr rs1) 1 (s.pc.toNat + 2) (regU rs1 s / 2 * 2 : Nat) s

/-- 42_control.md rules R504 to R509, 49_compressed.md rules R817, R818: a branch goes to its own address plus its
offset where its condition holds and to the next instruction where it fails; nothing else changes. -/
def Obligations.BranchResults : Prop :=
  ∀ (rs1 rs2 : Reg) (imm : BitVec 12) (crs1 : CReg) (c8 : BitVec 8) (s : State),
    GivesBranch (.beq rs1 rs2 imm) (regU rs1 s = regU rs2 s) (2 * imm.toInt) s
    ∧ GivesBranch (.bne rs1 rs2 imm) (regU rs1 s ≠ regU rs2 s) (2 * imm.toInt) s
    ∧ GivesBranch (.blt rs1 rs2 imm) (regS rs1 s < regS rs2 s) (2 * imm.toInt) s
    ∧ GivesBranch (.bge rs1 rs2 imm) (regS rs1 s ≥ regS rs2 s) (2 * imm.toInt) s
    ∧ GivesBranch (.bltu rs1 rs2 imm) (regU rs1 s < regU rs2 s) (2 * imm.toInt) s
    ∧ GivesBranch (.bgeu rs1 rs2 imm) (regU rs1 s ≥ regU rs2 s) (2 * imm.toInt) s
    ∧ GivesBranch (.cBeqz crs1 c8) (regU (wide crs1) s = 0) (2 * c8.toInt) s
    ∧ GivesBranch (.cBnez crs1 c8) (regU (wide crs1) s ≠ 0) (2 * c8.toInt) s

/-! ### Loads and stores -/

/-- 43_loadstore.md rule R520, 30_encoding.md rule R382: an effective address is the base register plus the offset,
modulo 2^XLEN; the offset of a 32-bit form is signed, that of a compressed form is unsigned and scaled. -/
def Obligations.EffectiveAddresses : Prop :=
  ∀ (base : Reg) (imm : BitVec 12) (c5 : BitVec 5) (c6 : BitVec 6) (s : State),
    ((effAddr base (sextImm imm) s).toNat : Int) = wrapX (regU base s + imm.toInt) s
    ∧ ((effAddr base (scaledImm 2 c5) s).toNat : Int) = wrapX (regU base s + 4 * c5.toNat) s
    ∧ ((effAddr base (scaledImm 3 c5) s).toNat : Int) = wrapX (regU base s + 8 * c5.toNat) s
    ∧ ((effAddr base (scaledImm 2 c6) s).toNat : Int) = wrapX (regU base s + 4 * c6.toNat) s
    ∧ ((effAddr base (scaledImm 3 c6) s).toNat : Int) = wrapX (regU base s + 8 * c6.toNat) s

/-- 43_loadstore.md rules R521, R523 to R529, 49_compressed.md rules R792, R794, R822, R824: a load whose access passes
its checks puts the little-endian number at the address into `rd`, sign- or zero-extended. -/
def Obligations.LoadResults : Prop :=
  ∀ (rd rs1 : Reg) (imm : BitVec 12) (crd crs1 : CReg) (c5 : BitVec 5) (c6 : BitVec 6) (pa v : Nat) (s : State),
    (Loads (effAddr rs1 (sextImm imm) s) 1 pa v s →
      GivesX (.lb rd rs1 imm) rd (signedOf 8 v) s ∧ GivesX (.lbu rd rs1 imm) rd v s)
    ∧ (Loads (effAddr rs1 (sextImm imm) s) 2 pa v s →
      GivesX (.lh rd rs1 imm) rd (signedOf 16 v) s ∧ GivesX (.lhu rd rs1 imm) rd v s)
    ∧ (Loads (effAddr rs1 (sextImm imm) s) 4 pa v s →
      GivesX (.lw rd rs1 imm) rd (signedOf 32 v) s ∧ GivesX (.lwu rd rs1 imm) rd v s)
    ∧ (Loads (effAddr rs1 (sextImm imm) s) 8 pa v s → GivesX (.ld rd rs1 imm) rd v s)
    ∧ (Loads (effAddr (wide crs1) (scaledImm 2 c5) s) 4 pa v s →
      GivesX (.cLw crd crs1 c5) (wide crd) (signedOf 32 v) s)
    ∧ (Loads (effAddr (wide crs1) (scaledImm 3 c5) s) 8 pa v s → GivesX (.cLd crd crs1 c5) (wide crd) v s)
    ∧ (Loads (effAddr 2 (scaledImm 2 c6) s) 4 pa v s → GivesX (.cLwsp rd c6) rd (signedOf 32 v) s)
    ∧ (Loads (effAddr 2 (scaledImm 3 c6) s) 8 pa v s → GivesX (.cLdsp rd c6) rd v s)

/-- 43_loadstore.md rules R522, R530 to R533, 49_compressed.md rules R796, R798, R836, R838: a store whose access passes
its checks writes the low bytes of `x[rs2]`, little-endian, at the translated address and nothing else. -/
def Obligations.StoreResults : Prop :=
  ∀ (rs1 rs2 : Reg) (imm : BitVec 12) (crs1 crs2 : CReg) (c5 : BitVec 5) (c6 : BitVec 6) (s : State),
    GivesStore (.sb rs1 rs2 imm) (effAddr rs1 (sextImm imm) s) 1 (regU rs2 s) s
    ∧ GivesStore (.sh rs1 rs2 imm) (effAddr rs1 (sextImm imm) s) 2 (regU rs2 s) s
    ∧ GivesStore (.sw rs1 rs2 imm) (effAddr rs1 (sextImm imm) s) 4 (regU rs2 s) s
    ∧ GivesStore (.sd rs1 rs2 imm) (effAddr rs1 (sextImm imm) s) 8 (regU rs2 s) s
    ∧ GivesStore (.cSw crs1 crs2 c5) (effAddr (wide crs1) (scaledImm 2 c5) s) 4 (regU (wide crs2) s) s
    ∧ GivesStore (.cSd crs1 crs2 c5) (effAddr (wide crs1) (scaledImm 3 c5) s) 8 (regU (wide crs2) s) s
    ∧ GivesStore (.cSwsp rs2 c6) (effAddr 2 (scaledImm 2 c6) s) 4 (regU rs2 s) s
    ∧ GivesStore (.cSdsp rs2 c6) (effAddr 2 (scaledImm 3 c6) s) 8 (regU rs2 s) s

/-- 20_memory.md rules R212, R215, R216, R218, R243: the checks of a data access in their order, and the exception of
each with the virtual address as trap value: alignment, translation, PMP, then the bus. A load, LR or floating-point
load raises the Load exceptions, a store, SC or AMO the Store ones. -/
def Obligations.AccessTraps : Prop :=
  ∀ (i : Instr) (ea : Word) (n : Nat) (s : State), (isFp i = true → mstatusFS s ≠ 0) →
    (loadAccess i s = some (ea, n) →
      (ea.toNat % n ≠ 0 → Raises i .loadAddrMisaligned ea s)
      ∧ (ea.toNat % n = 0 → translate .load .data ea s = .error .pageFault → Raises i .loadPageFault ea s)
      ∧ (ea.toNat % n = 0 → translate .load .data ea s = .error .accessFault → Raises i .loadAccessFault ea s)
      ∧ (∀ pa, ea.toNat % n = 0 → translate .load .data ea s = .ok pa → pmpOk .load pa n s = false →
          Raises i .loadAccessFault ea s)
      ∧ (∀ pa, Passes .load ea n pa s → regionOf s.cfg.bus pa n = none
          ∨ (InDevice pa n s ∧ Config.deviceRead s.draws .data none pa n = none) → Raises i .loadAccessFault ea s))
    ∧ (storeAccess i s = some (ea, n) ∨ atomicAccess i s = some (ea, n) →
      (ea.toNat % n ≠ 0 → Raises i .storeAddrMisaligned ea s)
      ∧ (ea.toNat % n = 0 → translate .store .data ea s = .error .pageFault → Raises i .storePageFault ea s)
      ∧ (ea.toNat % n = 0 → translate .store .data ea s = .error .accessFault → Raises i .storeAccessFault ea s)
      ∧ (∀ pa, ea.toNat % n = 0 → translate .store .data ea s = .ok pa → pmpOk .store pa n s = false →
          Raises i .storeAccessFault ea s)
      ∧ (∀ pa, isReservation i = false → Passes .store ea n pa s → regionOf s.cfg.bus pa n = none →
          Raises i .storeAccessFault ea s))

/-- 47_float_f.md rules R670, R671, 48_float_d.md rules R721, R722, 49_compressed.md rules R791, R793, R795, R797, R821,
R823, R835, R837: with FS not Off, a floating-point load puts the loaded bits into `f[rd]` (a single boxed) and makes
FS Dirty; a store writes the low bytes of `f[rs2]` raw and leaves FS alone. -/
def Obligations.FpLoadStoreResults : Prop :=
  ∀ (rd rs2 : FReg) (rs1 : Reg) (imm : BitVec 12) (crd crs2 : CFReg) (crs1 : CReg) (c5 : BitVec 5) (c6 : BitVec 6)
    (pa v : Nat) (s : State), mstatusFS s ≠ 0 →
    (Loads (effAddr rs1 (sextImm imm) s) 4 pa v s → GivesF (.flw rd rs1 imm) rd (box (BitVec.ofNat 32 v)) 0 s)
    ∧ (Loads (effAddr rs1 (sextImm imm) s) 8 pa v s → GivesF (.fld rd rs1 imm) rd (BitVec.ofNat 64 v) 0 s)
    ∧ (Loads (effAddr (wide crs1) (scaledImm 2 c5) s) 4 pa v s →
      GivesF (.cFlw crd crs1 c5) (wide crd) (box (BitVec.ofNat 32 v)) 0 s)
    ∧ (Loads (effAddr (wide crs1) (scaledImm 3 c5) s) 8 pa v s →
      GivesF (.cFld crd crs1 c5) (wide crd) (BitVec.ofNat 64 v) 0 s)
    ∧ (Loads (effAddr 2 (scaledImm 2 c6) s) 4 pa v s → GivesF (.cFlwsp rd c6) rd (box (BitVec.ofNat 32 v)) 0 s)
    ∧ (Loads (effAddr 2 (scaledImm 3 c6) s) 8 pa v s → GivesF (.cFldsp rd c6) rd (BitVec.ofNat 64 v) 0 s)
    ∧ GivesStore (.fsw rs1 rs2 imm) (effAddr rs1 (sextImm imm) s) 4 (readF rs2 s).toNat s
    ∧ GivesStore (.fsd rs1 rs2 imm) (effAddr rs1 (sextImm imm) s) 8 (readF rs2 s).toNat s
    ∧ GivesStore (.cFsw crs1 crs2 c5) (effAddr (wide crs1) (scaledImm 2 c5) s) 4 (readF (wide crs2) s).toNat s
    ∧ GivesStore (.cFsd crs1 crs2 c5) (effAddr (wide crs1) (scaledImm 3 c5) s) 8 (readF (wide crs2) s).toNat s
    ∧ GivesStore (.cFswsp rs2 c6) (effAddr 2 (scaledImm 2 c6) s) 4 (readF rs2 s).toNat s
    ∧ GivesStore (.cFsdsp rs2 c6) (effAddr 2 (scaledImm 3 c6) s) 8 (readF rs2 s).toNat s

/-! ### System instructions -/

/-- 44_system.md rules R550 to R553, R557 to R559, 49_compressed.md rule R833, 30_encoding.md rules R370, R385: FENCE and
WFI do nothing in any mode; FENCE.I, and SFENCE.VMA outside User mode, only empty the icache; ECALL raises by the mode
with trap value 0; EBREAK and C.EBREAK halt the hart where the build says so and raise Breakpoint with `pc` where it
does not; a reserved compressed encoding raises IllegalInstr with its parcel. -/
def Obligations.SystemInstructionResults : Prop :=
  ∀ (fm pred succ : BitVec 4) (rs1 rs2 rd : Reg) (imm : BitVec 12) (w : BitVec 16) (s : State),
    exec (.fence fm pred succ rs1 rd) s = .next s
    ∧ exec .wfi s = .next s
    ∧ exec (.fenceI imm rs1 rd) s = .next { s with icache := [] }
    ∧ (s.priv ≠ .user → exec (.sfenceVma rs1 rs2) s = .next { s with icache := [] })
    ∧ (s.priv = .user → Raises (.sfenceVma rs1 rs2) .illegalInstr (Instr.bits (.sfenceVma rs1 rs2)) s)
    ∧ (s.priv = .user → Raises .ecall .ecallU 0 s)
    ∧ (s.priv = .supervisor → Raises .ecall .ecallS 0 s)
    ∧ (s.priv = .machine → Raises .ecall .ecallM 0 s)
    ∧ (s.cfg.haltOnEbreak = true →
        exec .ebreak s = .next { s with haltPc := s.pc, haltCode := readX 10 s, runState := .halt }
        ∧ exec .cEbreak s = .next { s with haltPc := s.pc, haltCode := readX 10 s, runState := .halt })
    ∧ (s.cfg.haltOnEbreak = false → Raises .ebreak .breakpoint s.pc s ∧ Raises .cEbreak .breakpoint s.pc s)
    ∧ Raises (.cIllegal w) .illegalInstr (w.setWidth 64) s

/-- 44_system.md rules R555 and R556: MRET in Machine mode and SRET outside User mode restore the mode and the interrupt
enable, set the previous enable, make User the previous mode (SRET clears MPRV too) and resume at the saved `pc`;
every other bit of `mstatus` and the rest of the state are unchanged. In a lower mode they raise IllegalInstr with
their word. -/
def Obligations.TrapReturns : Prop :=
  ∀ s : State,
    (s.priv = .machine → s.mstatus.extractLsb' 11 2 ≠ 2 → ∃ t, exec .mret s = .next t
      ∧ t.priv.level = (s.mstatus.extractLsb' 11 2).toNat ∧ t.npc = s.mepc
      ∧ (∀ k, k < 64 → bit t.mstatus k =
          if k = 3 then bit s.mstatus 7 else if k = 7 then true else if k = 11 ∨ k = 12 then false else bit s.mstatus k)
      ∧ t = { s with mstatus := t.mstatus, priv := t.priv, npc := t.npc })
    ∧ (s.priv ≠ .machine → Raises .mret .illegalInstr 0x30200073 s)
    ∧ (s.priv ≠ .user → ∃ t, exec .sret s = .next t
      ∧ t.priv = (if bit s.mstatus 8 then .supervisor else .user) ∧ t.npc = s.sepc
      ∧ (∀ k, k < 64 → bit t.mstatus k =
          if k = 1 then bit s.mstatus 5 else if k = 5 then true else if k = 8 ∨ k = 17 then false else bit s.mstatus k)
      ∧ t = { s with mstatus := t.mstatus, priv := t.priv, npc := t.npc })
    ∧ (s.priv = .user → Raises .sret .illegalInstr 0x10200073 s)

/-! ### CSR instructions -/

/-- 44_system.md rules R570, R573 to R578: a CSR instruction that passes the checks puts the old value into `rd` and,
where its form writes, hands the new value to the register's write; a form that does not write changes `rd` alone. -/
def Obligations.CsrInstructionResults : Prop :=
  ∀ (i : Instr) (rd : Reg) (a : CsrAddr) (writes : Bool) (new : Word → Word) (c : Csr) (s : State),
    csrForm i s = some (rd, a, writes, new) → Csr.ofAddr s.cfg.xlen a = some c →
    (a.toNat / 256) % 4 ≤ s.priv.level → (writes = true → a.toNat / 1024 ≠ 3) → counterAllowed c s = true →
    (c = .fflags ∨ c = .frm ∨ c = .fcsr → mstatusFS s ≠ 0) →
    (writes = false → GivesX i rd (csrRead c s).toNat s)
    ∧ (writes = true → ∃ t, exec i s = .next t
      ∧ (regU rd t : Int) = (if rd = 0 then 0 else wrapX (csrRead c s).toNat s) ∧ SameXBut rd s t ∧ SameMemory s t
      ∧ t = { csrWrite c (norm s.cfg.xlen (new (csrRead c s))) s with x := t.x } ∧ t.npc = s.npc)

/-- 44_system.md rule R570, 10_state.md rules R63 to R67, R86: which register an address names in each build, and that
every other address is absent. The first failing check raises IllegalInstr with the word, and nothing is read or written:
an absent address, a mode below the address's, a write to a read-only address, a gated counter, a floating-point CSR with
FS Off. -/
def Obligations.CsrInstructionsRefused : Prop :=
  (∀ (xl : Xlen) (a : CsrAddr) (c : Csr), Csr.ofAddr xl a = some c ↔ csrNamed xl a.toNat c)
  ∧ (∀ (xl : Xlen) (a : CsrAddr), (∀ c, ¬csrNamed xl a.toNat c) → Csr.ofAddr xl a = none)
  ∧ ∀ (i : Instr) (rd : Reg) (a : CsrAddr) (writes : Bool) (new : Word → Word) (s : State),
    csrForm i s = some (rd, a, writes, new) →
    ((∀ c, ¬csrNamed s.cfg.xlen a.toNat c) ∨ s.priv.level < (a.toNat / 256) % 4
      ∨ (writes = true ∧ a.toNat / 1024 = 3)
      ∨ ∃ c, csrNamed s.cfg.xlen a.toNat c ∧ (counterAllowed c s = false
        ∨ ((c = .fflags ∨ c = .frm ∨ c = .fcsr) ∧ mstatusFS s = 0))) →
    Raises i .illegalInstr i.bits s

/-- 44_system.md rule R571: `cycle`, `time`, `instret` and their high halves raise IllegalInstr in Supervisor mode with
the `mcounteren` bit clear and in User mode with the `mcounteren` or the `scounteren` bit clear; Machine mode is never
gated, nor is `stimecmp`, and with the bits set nothing is; after reset both registers are 0. -/
def Obligations.CounterGating : Prop :=
  (∀ (i : Instr) (rd : Reg) (a : CsrAddr) (writes : Bool) (new : Word → Word) (s : State),
    csrForm i s = some (rd, a, writes, new) → a.toNat ∈ [0xC00, 0xC01, 0xC02, 0xC80, 0xC81, 0xC82] →
    (s.priv = .supervisor ∧ bit s.mcounteren (a.toNat % 32) = false)
      ∨ (s.priv = .user ∧ (bit s.mcounteren (a.toNat % 32) = false ∨ bit s.scounteren (a.toNat % 32) = false)) →
    Raises i .illegalInstr i.bits s)
  ∧ (∀ (c : Csr) (s : State), s.priv = .machine ∨ c = .stimecmp ∨ c = .stimecmph → counterAllowed c s = true)
  ∧ (∀ (a : CsrAddr) (c : Csr) (s : State), Csr.ofAddr s.cfg.xlen a = some c →
      a.toNat ∈ [0xC00, 0xC01, 0xC02, 0xC80, 0xC81, 0xC82] →
      (counterAllowed c s = true ↔ s.priv = .machine
        ∨ (s.priv = .supervisor ∧ bit s.mcounteren (a.toNat % 32) = true)
        ∨ (s.priv = .user ∧ bit s.mcounteren (a.toNat % 32) = true ∧ bit s.scounteren (a.toNat % 32) = true)))
  ∧ (∀ (cfg : Build) (entry : Word),
      (State.resetOf cfg entry).mcounteren = 0 ∧ (State.resetOf cfg entry).scounteren = 0)

/-- 44_system.md rule R572, 10_state.md rule R105: with FS Off any CSR instruction that names `fflags`, `frm` or `fcsr`
raises IllegalInstr, also a pure read; one that writes makes FS Dirty, so that SD reads 1; a pure read leaves `mstatus`
unchanged. Each of the three reads and writes its own bits of the one register. -/
def Obligations.FpCsrsFollowFs : Prop :=
  ∀ (i : Instr) (rd : Reg) (a : CsrAddr) (writes : Bool) (new : Word → Word) (s : State),
    csrForm i s = some (rd, a, writes, new) → a.toNat ∈ [1, 2, 3] →
    (mstatusFS s = 0 → Raises i .illegalInstr i.bits s)
    ∧ (mstatusFS s ≠ 0 → ∃ t, exec i s = .next t
        ∧ (writes = true → mstatusFS t = 3 ∧ bit t.mstatus (s.cfg.xlen.bits - 1) = true)
        ∧ (writes = false → t.mstatus = s.mstatus ∧ t.fcsr = s.fcsr))
    ∧ ∀ v : Word,
      (csrRead .fcsr s).toNat = s.fcsr.toNat ∧ (csrRead .fflags s).toNat = s.fcsr.toNat % 32
      ∧ (csrRead .frm s).toNat = s.fcsr.toNat / 32
      ∧ (csrWrite .fcsr v s).fcsr.toNat = v.toNat % 256
      ∧ (csrWrite .fflags v s).fcsr.toNat = s.fcsr.toNat / 32 * 32 + v.toNat % 32
      ∧ (csrWrite .frm v s).fcsr.toNat = v.toNat % 8 * 32 + s.fcsr.toNat % 32

/-- 10_state.md rules R71 and R90: a write of `mstatus` takes the writable bits, keeps MPP where the value holds 2, makes
SD say whether FS is Dirty and keeps SXL and UXL at 2; a write through `sstatus` does the same with fewer bits, and
reads of `sstatus` are masked. Nothing else changes. -/
def Obligations.MstatusWrites : Prop :=
  ∀ (v : Word) (s : State),
    (∀ k, k < 64 → bit (csrWrite .mstatus v s).mstatus k =
      if k = s.cfg.xlen.bits - 1 then bit v 13 && bit v 14
      else if s.cfg.xlen = .rv64 ∧ 32 ≤ k ∧ k < 36 then decide (k = 33 ∨ k = 35)
      else if v.extractLsb' 11 2 = 2 ∧ (k = 11 ∨ k = 12) then bit s.mstatus k
      else if bit 0x000E79AA k then bit v k else bit s.mstatus k)
    ∧ csrWrite .mstatus v s = { s with mstatus := (csrWrite .mstatus v s).mstatus }
    ∧ (∀ k, k < 64 → bit (csrWrite .sstatus v s).mstatus k =
      if k = s.cfg.xlen.bits - 1 then bit v 13 && bit v 14
      else if s.cfg.xlen = .rv64 ∧ 32 ≤ k ∧ k < 36 then decide (k = 33 ∨ k = 35)
      else if bit 0x000C6122 k then bit v k else bit s.mstatus k)
    ∧ csrWrite .sstatus v s = { s with mstatus := (csrWrite .sstatus v s).mstatus }
    ∧ csrRead .mstatus s = s.mstatus
    ∧ (∀ k, k < 64 → bit (csrRead .sstatus s) k =
        (bit s.mstatus k && (bit 0x000C6122 k || decide (k = s.cfg.xlen.bits - 1)
          || (s.cfg.xlen == .rv64 && (k == 32 || k == 33)))))

/-- 10_state.md rules R61, R62, R72 to R85, R88, R91 to R99, R106, R107: what a write of each register stores, bit by
bit where a write-hook decides, and that it stores nothing elsewhere; and that a read gives the stored value, the half of
a counter, the uptime, or the constant of an identity register. A write of a counter marks it for rule R85 (log entry
17). -/
def Obligations.WriteHooks : Prop :=
  ∀ (v : Word) (s : State),
    (∀ k, k < 64 → bit (csrWrite .misa v s).misa k =
      if 26 ≤ k then bit s.misa k else if k = 4 then !bit v 8 else if k = 3 then bit v 3 && bit v 5 else bit v k)
    ∧ csrWrite .misa v s = { s with misa := (csrWrite .misa v s).misa }
    ∧ csrWrite .medeleg v s = { s with medeleg := v &&& 0xB3FF }
    ∧ csrWrite .mideleg v s = { s with mideleg := v &&& 0x222 }
    ∧ csrWrite .mie v s = { s with mie := v &&& 0xAAA }
    ∧ csrWrite .sie v s = { s with mie := (s.mie &&& ~~~0x222) ||| (v &&& 0x222) }
    ∧ csrWrite .mip v s = { s with mip := (s.mip &&& ~~~0x202) ||| (v &&& 0x202) }
    ∧ csrWrite .sip v s = { s with mip := (s.mip &&& ~~~0x002) ||| (v &&& 0x002) }
    ∧ csrRead .sie s = s.mie &&& 0x222 ∧ csrRead .sip s = s.mip &&& 0x222
    ∧ csrWrite .mtvec v s = { s with mtvec := v &&& ~~~2 }
    ∧ csrWrite .stvec v s = { s with stvec := v &&& ~~~2 }
    ∧ csrWrite .mcounteren v s = { s with mcounteren := v &&& 7 }
    ∧ csrWrite .scounteren v s = { s with scounteren := v &&& 7 }
    ∧ csrWrite .satp v s = { s with satp := (csrWrite .satp v s).satp }
    ∧ (s.cfg.xlen = .rv32 → ∀ k, k < 32 →
        bit (csrWrite .satp v s).satp k = (bit v k && !(decide (22 ≤ k) && decide (k < 31))))
    ∧ (s.cfg.xlen = .rv64 →
        (csrWrite .satp v s).satp.extractLsb' 0 44 = v.extractLsb' 0 44
        ∧ (csrWrite .satp v s).satp.extractLsb' 44 16 = 0
        ∧ (csrWrite .satp v s).satp.extractLsb' 60 4 =
          if v.extractLsb' 60 4 = 8 ∨ v.extractLsb' 60 4 = 9 ∨ v.extractLsb' 60 4 = 10 then v.extractLsb' 60 4 else 0)
    ∧ csrWrite .mscratch v s = { s with mscratch := v } ∧ csrWrite .sscratch v s = { s with sscratch := v }
    ∧ csrWrite .mepc v s = { s with mepc := v } ∧ csrWrite .sepc v s = { s with sepc := v }
    ∧ csrWrite .mcause v s = { s with mcause := v } ∧ csrWrite .scause v s = { s with scause := v }
    ∧ csrWrite .mtval v s = { s with mtval := v } ∧ csrWrite .stval v s = { s with stval := v }
    ∧ csrWrite .medelegh v s = { s with medelegh := v } ∧ csrWrite .mstatush v s = s
    ∧ csrWrite .mcycle v s = { s with mcycle := (csrWrite .mcycle v s).mcycle, wroteMcycle := true }
    ∧ (csrWrite .mcycle v s).mcycle.toNat = (match s.cfg.xlen with
        | .rv64 => v.toNat
        | .rv32 => s.mcycle.toNat / 2 ^ 32 * 2 ^ 32 + v.toNat % 2 ^ 32)
    ∧ csrWrite .mcycleh v s = { s with mcycle := (csrWrite .mcycleh v s).mcycle, wroteMcycle := true }
    ∧ (csrWrite .mcycleh v s).mcycle.toNat = v.toNat % 2 ^ 32 * 2 ^ 32 + s.mcycle.toNat % 2 ^ 32
    ∧ csrWrite .minstret v s = { s with minstret := (csrWrite .minstret v s).minstret, wroteMinstret := true }
    ∧ (csrWrite .minstret v s).minstret.toNat = (match s.cfg.xlen with
        | .rv64 => v.toNat
        | .rv32 => s.minstret.toNat / 2 ^ 32 * 2 ^ 32 + v.toNat % 2 ^ 32)
    ∧ csrWrite .minstreth v s = { s with minstret := (csrWrite .minstreth v s).minstret, wroteMinstret := true }
    ∧ (csrWrite .minstreth v s).minstret.toNat = v.toNat % 2 ^ 32 * 2 ^ 32 + s.minstret.toNat % 2 ^ 32
    ∧ csrRead .misa s = s.misa ∧ csrRead .medeleg s = s.medeleg ∧ csrRead .medelegh s = s.medelegh
    ∧ csrRead .mideleg s = s.mideleg ∧ csrRead .mie s = s.mie ∧ csrRead .mip s = s.mip ∧ csrRead .mtvec s = s.mtvec
    ∧ csrRead .stvec s = s.stvec ∧ csrRead .mcounteren s = s.mcounteren ∧ csrRead .scounteren s = s.scounteren
    ∧ csrRead .mscratch s = s.mscratch ∧ csrRead .sscratch s = s.sscratch ∧ csrRead .mepc s = s.mepc
    ∧ csrRead .sepc s = s.sepc ∧ csrRead .mcause s = s.mcause ∧ csrRead .scause s = s.scause
    ∧ csrRead .mtval s = s.mtval ∧ csrRead .stval s = s.stval ∧ csrRead .satp s = s.satp ∧ csrRead .mstatush s = 0
    ∧ csrRead .mvendorid s = 0 ∧ csrRead .marchid s = 0 ∧ csrRead .mimpid s = 0 ∧ csrRead .mconfigptr s = 0
    ∧ csrRead .mhartid s = BitVec.ofNat 64 s.cfg.hartId
    ∧ (∀ c, c = .mcycle ∨ c = .cycle → (csrRead c s).toNat = s.mcycle.toNat % 2 ^ s.cfg.xlen.bits)
    ∧ (∀ c, c = .mcycleh ∨ c = .cycleh → (csrRead c s).toNat = s.mcycle.toNat / 2 ^ 32)
    ∧ (∀ c, c = .minstret ∨ c = .instret → (csrRead c s).toNat = s.minstret.toNat % 2 ^ s.cfg.xlen.bits)
    ∧ (∀ c, c = .minstreth ∨ c = .instreth → (csrRead c s).toNat = s.minstret.toNat / 2 ^ 32)
    ∧ (csrRead .time s).toNat = s.uptime.toNat % 2 ^ s.cfg.xlen.bits
    ∧ (csrRead .timeh s).toNat = s.uptime.toNat / 2 ^ 32
    ∧ (csrRead .stimecmp s).toNat = s.stimecmp.toNat % 2 ^ s.cfg.xlen.bits
    ∧ (csrRead .stimecmph s).toNat = s.stimecmp.toNat / 2 ^ 32

/-- 10_state.md rule R86 and R87: a write of a `pmpcfg` register stores each byte of it into its own entry with bits 6
and 5 cleared and no other entry, reads give the entries back, and a `pmpaddr` keeps 32 or 54 bits. Nothing else
changes. -/
def Obligations.PmpRegisters : Prop :=
  ∀ (n : BitVec 4) (j : BitVec 6) (v : Word) (s : State), (s.cfg.xlen = .rv64 → n.toNat % 2 = 0) →
    (∀ k : Fin 64, (csrWrite (.pmpcfg n) v s).pmpcfg[k] =
      if 4 * n.toNat ≤ k.val ∧ k.val < 4 * n.toNat + s.cfg.xlen.bits / 8
      then v.extractLsb' (8 * (k.val - 4 * n.toNat)) 8 &&& 0x9F else s.pmpcfg[k])
    ∧ csrWrite (.pmpcfg n) v s = { s with pmpcfg := (csrWrite (.pmpcfg n) v s).pmpcfg }
    ∧ (∀ k : Fin 64, 4 * n.toNat ≤ k.val → k.val < 4 * n.toNat + s.cfg.xlen.bits / 8 →
        (csrRead (.pmpcfg n) s).extractLsb' (8 * (k.val - 4 * n.toNat)) 8 = s.pmpcfg[k])
    ∧ (csrRead (.pmpaddr j) (csrWrite (.pmpaddr j) v s)).toNat =
      v.toNat % 2 ^ (match s.cfg.xlen with | .rv32 => 32 | .rv64 => 54)
    ∧ csrWrite (.pmpaddr j) v s = { s with pmpaddr := (csrWrite (.pmpaddr j) v s).pmpaddr }
    ∧ (∀ k, k ≠ j → csrRead (.pmpaddr k) (csrWrite (.pmpaddr j) v s) = csrRead (.pmpaddr k) s)

/-- 10_state.md rule R100: after a write of `stimecmp`, or of one of its halves with XLEN = 32, the supervisor timer bit
says whether the uptime has reached the new value; where it has not, the value is registered as a deadline, and where it
has, nothing is registered and an earlier deadline stays (log entry 6). -/
def Obligations.TimerCompareWrites : Prop :=
  ∀ (c : Csr) (v : Word) (s : State), c = .stimecmp ∨ (c = .stimecmph ∧ s.cfg.xlen = .rv32) →
    (csrWrite c v s).stimecmp.toNat =
      (match s.cfg.xlen with
       | .rv64 => v.toNat
       | .rv32 =>
         if c = .stimecmp then s.stimecmp.toNat / 2 ^ 32 * 2 ^ 32 + v.toNat % 2 ^ 32
         else v.toNat % 2 ^ 32 * 2 ^ 32 + s.stimecmp.toNat % 2 ^ 32)
    ∧ bit (csrWrite c v s).mip 5 = decide ((csrWrite c v s).stimecmp.toNat ≤ s.uptime.toNat)
    ∧ (∀ k, k ≠ 5 → bit (csrWrite c v s).mip k = bit s.mip k)
    ∧ (s.uptime.toNat < (csrWrite c v s).stimecmp.toNat →
        (csrWrite c v s).timerDeadline = some (csrWrite c v s).stimecmp)
    ∧ ((csrWrite c v s).stimecmp.toNat ≤ s.uptime.toNat → (csrWrite c v s).timerDeadline = s.timerDeadline)
    ∧ csrWrite c v s = { s with
        stimecmp := (csrWrite c v s).stimecmp
        mip := (csrWrite c v s).mip
        timerDeadline := (csrWrite c v s).timerDeadline }

/-! ### Traps -/

/-- 60_exceptions.md rules R850, R870: taking an exception: which registers save the `pc`, the cause and the trap value,
what the status and the mode become, where `npc` goes, in both targets; nothing else changes (rule R874). The cause is
the number of the exception in the table of rule R850. -/
def Obligations.TrapDelivery : Prop :=
  (∀ (e : Exn) (s : State),
    (delegated e.cause.code s = true →
      (deliver e s).sepc = s.pc ∧ (deliver e s).scause.toNat = e.cause.code ∧ (deliver e s).stval = e.tval
      ∧ (∀ k, k < 64 → bit (deliver e s).mstatus k =
          if k = 8 then s.priv != .user else if k = 5 then bit s.mstatus 1 else if k = 1 then false
          else bit s.mstatus k)
      ∧ (deliver e s).priv = .supervisor ∧ (deliver e s).npc = trapVector s.cfg.xlen s.stvec e.cause.code
      ∧ (deliver e s).trapPending = true
      ∧ deliver e s = { s with
          sepc := (deliver e s).sepc
          scause := (deliver e s).scause
          stval := (deliver e s).stval
          mstatus := (deliver e s).mstatus
          priv := (deliver e s).priv
          npc := (deliver e s).npc
          trapPending := (deliver e s).trapPending })
    ∧ (delegated e.cause.code s = false →
      (deliver e s).mepc = s.pc ∧ (deliver e s).mcause.toNat = e.cause.code ∧ (deliver e s).mtval = e.tval
      ∧ (∀ k, k < 64 → bit (deliver e s).mstatus k =
          if k = 11 then s.priv != .user else if k = 12 then s.priv == .machine
          else if k = 7 then bit s.mstatus 3 else if k = 3 then false else bit s.mstatus k)
      ∧ (deliver e s).priv = .machine ∧ (deliver e s).npc = trapVector s.cfg.xlen s.mtvec e.cause.code
      ∧ (deliver e s).trapPending = true
      ∧ deliver e s = { s with
          mepc := (deliver e s).mepc
          mcause := (deliver e s).mcause
          mtval := (deliver e s).mtval
          mstatus := (deliver e s).mstatus
          priv := (deliver e s).priv
          npc := (deliver e s).npc
          trapPending := (deliver e s).trapPending }))
  ∧ Cause.code .instrAddrMisaligned = 0 ∧ Cause.code .instrAccessFault = 1 ∧ Cause.code .illegalInstr = 2
  ∧ Cause.code .breakpoint = 3 ∧ Cause.code .loadAddrMisaligned = 4 ∧ Cause.code .loadAccessFault = 5
  ∧ Cause.code .storeAddrMisaligned = 6 ∧ Cause.code .storeAccessFault = 7 ∧ Cause.code .ecallU = 8
  ∧ Cause.code .ecallS = 9 ∧ Cause.code .ecallM = 11 ∧ Cause.code .instrPageFault = 12
  ∧ Cause.code .loadPageFault = 13 ∧ Cause.code .storePageFault = 15

/-- 60_exceptions.md rules R871 and R873: which traps are delegated, that a trap never lowers the privilege mode, and the
vector: `base` in direct mode, `base + 4 * code` modulo 2^XLEN in vectored mode, for every cause. -/
def Obligations.TrapTargets : Prop :=
  ∀ (e : Exn) (s : State) (code : Nat) (tvec : Word), code < 64 → Fits s.cfg.xlen tvec →
    (delegated code s = true ↔ s.priv ≠ .machine
      ∧ ((code < s.cfg.xlen.bits ∧ bit s.medeleg code = true)
        ∨ (s.cfg.xlen = .rv32 ∧ 32 ≤ code ∧ bit s.medelegh (code - 32) = true)))
    ∧ s.priv.level ≤ (deliver e s).priv.level
    ∧ (s.priv = .machine → (deliver e s).priv = .machine)
    ∧ (bit tvec 0 = false → (trapVector s.cfg.xlen tvec code).toNat = tvec.toNat / 4 * 4)
    ∧ (bit tvec 0 = true →
        (trapVector s.cfg.xlen tvec code).toNat = (tvec.toNat / 4 * 4 + 4 * code) % 2 ^ s.cfg.xlen.bits)

/-- 60_exceptions.md rules R880 to R882: which interrupt a scan takes and where: the first pending, enabled and
machine-destined one in the order 11, 3, 7, 9, 1, 5 where the mode is below Machine or MIE is set; else the first
supervisor-destined one in the order 9, 1, 5 in User mode, or in Supervisor mode with SIE set; else none. -/
def Obligations.InterruptPriority : Prop :=
  ∀ (s : State),
    let ready (c : Nat) : Prop := bit s.mip c = true ∧ bit s.mie c = true
    let toM (c : Nat) : Prop := ready c ∧ bit s.mideleg c = false ∧ (s.priv ≠ .machine ∨ bit s.mstatus 3 = true)
    let toS (c : Nat) : Prop := ready c ∧ bit s.mideleg c = true
      ∧ (s.priv = .user ∨ (s.priv = .supervisor ∧ bit s.mstatus 1 = true))
    (∀ i, interruptScan s = some (i, false) ↔ ∃ before after, [11, 3, 7, 9, 1, 5] = before ++ i.code :: after
      ∧ toM i.code ∧ ∀ c ∈ before, ¬toM c)
    ∧ (∀ i, interruptScan s = some (i, true) ↔ (∀ c ∈ [11, 3, 7, 9, 1, 5], ¬toM c)
      ∧ ∃ before after, [9, 1, 5] = before ++ i.code :: after ∧ toS i.code ∧ ∀ c ∈ before, ¬toS c)

/-- 60_exceptions.md rule R872, 40_step.md rule R430: a step whose scan chooses an interrupt executes no instruction: it
saves the `pc` of the instruction that has not run, sets the cause with the interrupt bit, goes to the vector of the
code, and leaves the trap value, the pending bits and `minstret` alone. -/
def Obligations.InterruptDelivery : Prop :=
  ∀ (s s0 : State) (i : Irq) (toS : Bool), s.runState = .running → s0 = beginStep (nextInput s) s →
    interruptScan s0 = some (i, toS) → ∃ t, step s = .next t ∧ t.minstret = s0.minstret ∧ t.mip = s0.mip
      ∧ t.x = s0.x ∧ t.f = s0.f ∧ t.mem = s0.mem ∧ t.mtval = s0.mtval ∧ t.stval = s0.stval
      ∧ t.mcycle.toNat = (s0.mcycle.toNat + 1) % 2 ^ 64
      ∧ (toS = true → t.sepc = s0.pc ∧ t.scause.toNat = 2 ^ (s0.cfg.xlen.bits - 1) + i.code
        ∧ t.priv = .supervisor ∧ t.pc = trapVector s0.cfg.xlen s0.stvec i.code ∧ t.mepc = s0.mepc
        ∧ t.mcause = s0.mcause
        ∧ ∀ k, k < 64 → bit t.mstatus k = if k = 8 then s0.priv != .user else if k = 5 then bit s0.mstatus 1
          else if k = 1 then false else bit s0.mstatus k)
      ∧ (toS = false → t.mepc = s0.pc ∧ t.mcause.toNat = 2 ^ (s0.cfg.xlen.bits - 1) + i.code
        ∧ t.priv = .machine ∧ t.pc = trapVector s0.cfg.xlen s0.mtvec i.code ∧ t.sepc = s0.sepc
        ∧ t.scause = s0.scause
        ∧ ∀ k, k < 64 → bit t.mstatus k = if k = 11 then s0.priv != .user else if k = 12 then s0.priv == .machine
          else if k = 7 then bit s0.mstatus 3 else if k = 3 then false else bit s0.mstatus k)

/-! ### Atomics -/

/-- 46_atomics.md rules R621, R625, R626: LR loads like a load and records the value, zero-extended, under the physical
address; every other entry stays. -/
def Obligations.LoadReservedResults : Prop :=
  ∀ (rd rs1 : Reg) (aq rl : BitVec 1) (pa v : Nat) (s : State) (i : Instr) (n : Nat),
    (i = .lrW rd rs1 aq rl ∧ n = 4) ∨ (i = .lrD rd rs1 aq rl ∧ n = 8) → Loads (readX rs1 s) n pa v s →
    ∃ t, exec i s = .next t ∧ (regU rd t : Int) = (if rd = 0 then 0 else wrapX (signedOf (8 * n) v) s)
      ∧ mapLookup pa t.resv = some (BitVec.ofNat 64 v) ∧ (∀ q, q ≠ pa → mapLookup q t.resv = mapLookup q s.resv)
      ∧ SameXBut rd s t ∧ SameMemory s t ∧ t = { s with x := t.x, resv := t.resv }

/-- 46_atomics.md rules R623, R627, R628: SC writes 1 and empties the table where the address has no entry; with an
entry it consumes that entry, and stores and writes 0 where memory still holds the recorded value, or writes 1 and
stores nothing; a device answers the compare-and-swap itself, and one that refuses it leaves the entry consumed. -/
def Obligations.StoreConditionalResults : Prop :=
  ∀ (rd rs1 rs2 : Reg) (aq rl : BitVec 1) (pa : Nat) (s : State) (i : Instr) (n : Nat),
    (i = .scW rd rs1 rs2 aq rl ∧ n = 4) ∨ (i = .scD rd rs1 rs2 aq rl ∧ n = 8) → Passes .store (readX rs1 s) n pa s →
    (mapLookup pa s.resv = none → ∃ t, exec i s = .next t ∧ regU rd t = (if rd = 0 then 0 else 1)
      ∧ SameXBut rd s t ∧ SameMemory s t ∧ t = { s with x := t.x, resv := [] })
    ∧ (∀ e, mapLookup pa s.resv = some e →
      (InRam pa n s → ∃ t, exec i s = .next t
        ∧ mapLookup pa t.resv = none ∧ (∀ q, q ≠ pa → mapLookup q t.resv = mapLookup q s.resv)
        ∧ SameXBut rd s t ∧ SameMemoryOutside pa n s t ∧ t = { s with x := t.x, resv := t.resv, mem := t.mem }
        ∧ (leNat s.mem pa n = e.toNat % 2 ^ (8 * n) →
            regU rd t = 0 ∧ leNat t.mem pa n = regU rs2 s % 2 ^ (8 * n))
        ∧ (leNat s.mem pa n ≠ e.toNat % 2 ^ (8 * n) → regU rd t = (if rd = 0 then 0 else 1) ∧ SameMemory s t))
      ∧ (InDevice pa n s →
        ∀ answer, answer = Config.deviceCas s.draws pa n (BitVec.ofNat 64 (e.toNat % 2 ^ (8 * n)))
            (BitVec.ofNat 64 (regU rs2 s % 2 ^ (8 * n))) →
          (answer = none →
            exec i s = .next (deliver ⟨.storeAccessFault, readX rs1 s⟩ { s with resv := mapErase pa s.resv }))
          ∧ (∀ ok, answer = some ok → ∃ t, exec i s = .next t
            ∧ regU rd t = (if rd = 0 ∨ ok = true then 0 else 1) ∧ SameXBut rd s t ∧ SameMemory s t
            ∧ t = { s with x := t.x, resv := mapErase pa s.resv }))
      ∧ (regionOf s.cfg.bus pa n = none →
          exec i s = .next (deliver ⟨.storeAccessFault, readX rs1 s⟩ { s with resv := mapErase pa s.resv })))

/-- 46_atomics.md rules R630 to R648: an AMO whose access passes its checks puts the old number, sign-extended, into
`rd` and the combined number into memory, in one step; nothing else changes, not the reservations. A device answers
the old number itself or refuses. -/
def Obligations.AmoResults : Prop :=
  ∀ (i : Instr) (n : Nat) (kind : AtomicKind) (rd rs1 rs2 : Reg) (pa : Nat) (s : State),
    amoForm i = some (n, kind, rd, rs1, rs2) → Passes .store (readX rs1 s) n pa s →
    (InRam pa n s → ∃ t, exec i s = .next t
      ∧ (regU rd t : Int) = (if rd = 0 then 0 else wrapX (signedOf (8 * n) (leNat s.mem pa n)) s)
      ∧ leNat t.mem pa n = combineNat kind (8 * n) (leNat s.mem pa n) (regU rs2 s % 2 ^ (8 * n))
      ∧ SameXBut rd s t ∧ SameMemoryOutside pa n s t ∧ t = { s with x := t.x, mem := t.mem })
    ∧ (InDevice pa n s →
      ∀ answer, answer = Config.deviceAtomic s.draws kind pa n (BitVec.ofNat 64 (regU rs2 s % 2 ^ (8 * n))) →
        (answer = none → Raises i .storeAccessFault (readX rs1 s) s)
        ∧ (∀ old, answer = some old → GivesX i rd (signedOf (8 * n) (old.toNat % 2 ^ (8 * n))) s))

/-- 46_atomics.md rule R624: an LR followed by an SC to the same memory address with no write between them succeeds, and
a second SC at once fails. -/
def Obligations.LrThenScSucceedsOnce : Prop :=
  ∀ (lr sc1 sc2 : Instr) (n : Nat) (rd rs1 rd1 rs1' rs2 rd2 rs1'' rs2' : Reg) (pa : Nat) (s t u v : State),
    ((∃ a b c d e f, lr = .lrW rd rs1 a b ∧ sc1 = .scW rd1 rs1' rs2 c d ∧ sc2 = .scW rd2 rs1'' rs2' e f ∧ n = 4)
      ∨ (∃ a b c d e f, lr = .lrD rd rs1 a b ∧ sc1 = .scD rd1 rs1' rs2 c d ∧ sc2 = .scD rd2 rs1'' rs2' e f ∧ n = 8)) →
    rd1 ≠ 0 → rd2 ≠ 0 → InRam pa n s →
    Passes .load (readX rs1 s) n pa s → exec lr s = .next t →
    Passes .store (readX rs1' t) n pa t → exec sc1 t = .next u →
    Passes .store (readX rs1'' u) n pa u → exec sc2 u = .next v →
    regU rd1 u = 0 ∧ regU rd2 v = 1

/-! ### Floating point -/

/-- 47_float_f.md rules R663, R665, R701: with FS Off every floating-point instruction raises IllegalInstr with its
bits; with FS not Off, so does one whose rounding mode is reserved. -/
def Obligations.FpGuards : Prop :=
  ∀ (i : Instr) (s : State),
    (isFp i = true → mstatusFS s = 0 → Raises i .illegalInstr i.bits s)
    ∧ (∀ rm, roundingField i = some rm → 5 ≤ (if rm = 7 then s.fcsr.extractLsb' 5 3 else rm).toNat →
        Raises i .illegalInstr i.bits s)

/-- 47_float_f.md rules R661, R662, R672 to R680, R694 to R697, 48_float_d.md rules R723 to R731, R741, R742, R747 to
R750: with FS not Off and a legal rounding mode, an instruction that computes a floating-point result writes what
`FpArith` gives for its unboxed operands (a single boxed) and accrues its flags. -/
def Obligations.FpArithmeticResults : Prop :=
  ∀ (rd rs1 rs2 rs3 : FReg) (x1 : Reg) (rm m : Rm) (s : State), mstatusFS s ≠ 0 → RoundsBy rm m s →
    let single (r : FReg) : BitVec 64 := (unbox (readF r s)).setWidth 64
    let resS (op : FpOp) (a b c : BitVec 64) := fpArith s.cfg.fp op .s m a b c
    let resD (op : FpOp) (a b c : BitVec 64) := fpArith s.cfg.fp op .d m a b c
    let GivesS (i : Instr) (r : BitVec 64 × BitVec 5) : Prop := GivesF i rd (box (r.1.setWidth 32)) r.2 s
    let GivesD (i : Instr) (r : BitVec 64 × BitVec 5) : Prop := GivesF i rd r.1 r.2 s
    GivesS (.faddS rd rs1 rs2 rm) (resS .add (single rs1) (single rs2) 0)
    ∧ GivesS (.fsubS rd rs1 rs2 rm) (resS .sub (single rs1) (single rs2) 0)
    ∧ GivesS (.fmulS rd rs1 rs2 rm) (resS .mul (single rs1) (single rs2) 0)
    ∧ GivesS (.fdivS rd rs1 rs2 rm) (resS .div (single rs1) (single rs2) 0)
    ∧ GivesS (.fsqrtS rd rs1 rm) (resS .sqrt (single rs1) 0 0)
    ∧ GivesS (.fmaddS rd rs1 rs2 rs3 rm) (resS .fmadd (single rs1) (single rs2) (single rs3))
    ∧ GivesS (.fmsubS rd rs1 rs2 rs3 rm) (resS .fmsub (single rs1) (single rs2) (single rs3))
    ∧ GivesS (.fnmsubS rd rs1 rs2 rs3 rm) (resS .fnmsub (single rs1) (single rs2) (single rs3))
    ∧ GivesS (.fnmaddS rd rs1 rs2 rs3 rm) (resS .fnmadd (single rs1) (single rs2) (single rs3))
    ∧ GivesS (.fcvtSW rd x1 rm) (resS (.cvtI2F 32 true) (BitVec.ofNat 64 (lowU x1 s)) 0 0)
    ∧ GivesS (.fcvtSWu rd x1 rm) (resS (.cvtI2F 32 false) (BitVec.ofNat 64 (lowU x1 s)) 0 0)
    ∧ GivesS (.fcvtSL rd x1 rm) (resS (.cvtI2F 64 true) (readX x1 s) 0 0)
    ∧ GivesS (.fcvtSLu rd x1 rm) (resS (.cvtI2F 64 false) (readX x1 s) 0 0)
    ∧ GivesS (.fcvtSD rd rs1 rm) (resS .cvtF2F (readF rs1 s) 0 0)
    ∧ GivesD (.faddD rd rs1 rs2 rm) (resD .add (readF rs1 s) (readF rs2 s) 0)
    ∧ GivesD (.fsubD rd rs1 rs2 rm) (resD .sub (readF rs1 s) (readF rs2 s) 0)
    ∧ GivesD (.fmulD rd rs1 rs2 rm) (resD .mul (readF rs1 s) (readF rs2 s) 0)
    ∧ GivesD (.fdivD rd rs1 rs2 rm) (resD .div (readF rs1 s) (readF rs2 s) 0)
    ∧ GivesD (.fsqrtD rd rs1 rm) (resD .sqrt (readF rs1 s) 0 0)
    ∧ GivesD (.fmaddD rd rs1 rs2 rs3 rm) (resD .fmadd (readF rs1 s) (readF rs2 s) (readF rs3 s))
    ∧ GivesD (.fmsubD rd rs1 rs2 rs3 rm) (resD .fmsub (readF rs1 s) (readF rs2 s) (readF rs3 s))
    ∧ GivesD (.fnmsubD rd rs1 rs2 rs3 rm) (resD .fnmsub (readF rs1 s) (readF rs2 s) (readF rs3 s))
    ∧ GivesD (.fnmaddD rd rs1 rs2 rs3 rm) (resD .fnmadd (readF rs1 s) (readF rs2 s) (readF rs3 s))
    ∧ GivesD (.fcvtDW rd x1 rm) (resD (.cvtI2F 32 true) (BitVec.ofNat 64 (lowU x1 s)) 0 0)
    ∧ GivesD (.fcvtDWu rd x1 rm) (resD (.cvtI2F 32 false) (BitVec.ofNat 64 (lowU x1 s)) 0 0)
    ∧ GivesD (.fcvtDL rd x1 rm) (resD (.cvtI2F 64 true) (readX x1 s) 0 0)
    ∧ GivesD (.fcvtDLu rd x1 rm) (resD (.cvtI2F 64 false) (readX x1 s) 0 0)
    ∧ GivesD (.fcvtDS rd rs1 rm) (resD .cvtF2F (single rs1) 0 0)

/-- 47_float_f.md rules R690 to R693, R700, 48_float_d.md rules R743 to R746: with FS not Off and a legal rounding mode,
a conversion to an integer writes what `FpArith` gives, a 32-bit result sign-extended (the unsigned one too), and
accrues its flags. The default `FpArith` gives the table of rule R700: the bound and NV alone for a NaN, an infinity and
a rounded integer out of range, else the rounded integer, with NX where it is not the operand's value. -/
def Obligations.FpToIntegerResults : Prop :=
  (∀ (rd : Reg) (rs1 : FReg) (rm m : Rm) (s : State), mstatusFS s ≠ 0 → RoundsBy rm m s →
    let res (fmt : Fmt) (w : Nat) (sg : Bool) (a : BitVec 64) := fpArith s.cfg.fp (.cvtF2I w sg) fmt m a 0 0
    let single : BitVec 64 := (unbox (readF rs1 s)).setWidth 64
    let Gives32 (i : Instr) (r : BitVec 64 × BitVec 5) : Prop := GivesXFlags i rd (wrap32 r.1.toNat) r.2 s
    let Gives64 (i : Instr) (r : BitVec 64 × BitVec 5) : Prop := GivesXFlags i rd r.1.toNat r.2 s
    Gives32 (.fcvtWS rd rs1 rm) (res .s 32 true single)
    ∧ Gives32 (.fcvtWuS rd rs1 rm) (res .s 32 false single)
    ∧ Gives64 (.fcvtLS rd rs1 rm) (res .s 64 true single)
    ∧ Gives64 (.fcvtLuS rd rs1 rm) (res .s 64 false single)
    ∧ Gives32 (.fcvtWD rd rs1 rm) (res .d 32 true (readF rs1 s))
    ∧ Gives32 (.fcvtWuD rd rs1 rm) (res .d 32 false (readF rs1 s))
    ∧ Gives64 (.fcvtLD rd rs1 rm) (res .d 64 true (readF rs1 s))
    ∧ Gives64 (.fcvtLuD rd rs1 rm) (res .d 64 false (readF rs1 s)))
  ∧ ∀ (f : Fmt) (w : Nat) (sg : Bool) (rm : Rm) (a b c : BitVec 64), w = 32 ∨ w = 64 → rm.toNat < 5 → IsPattern f a →
    let r := fpArith .ieee754 (.cvtF2I w sg) f rm a b c
    let least := (intBounds w sg).1
    let greatest := (intBounds w sg).2
    (FpNaN f a ∨ (FpInf f a ∧ signOf f a = false) → r = (BitVec.ofInt 64 greatest, 0b10000#5))
    ∧ (FpInf f a ∧ signOf f a = true → r = (BitVec.ofInt 64 least, 0b10000#5))
    ∧ (fpFinite f a → ∃ n : ℤ, RoundsToInt rm (fpValue f a) n
      ∧ (n < least → r = (BitVec.ofInt 64 least, 0b10000#5))
      ∧ (greatest < n → r = (BitVec.ofInt 64 greatest, 0b10000#5))
      ∧ (least ≤ n → n ≤ greatest →
        r = (BitVec.ofInt 64 n, if (n : ℚ) = fpValue f a then 0b00000#5 else 0b00001#5)))

/-- 47_float_f.md rules R681 to R689, R698, R699, 48_float_d.md rules R732 to R740, R751, R752: with FS not Off: sign
injection bit by bit, minimum, maximum, comparison and classification of the unboxed operands, and the moves, which
read and write raw bits. Classification sets one bit, by the ten classes of rule R689. -/
def Obligations.FpBitResults : Prop :=
  (∀ (rd rs1 rs2 : FReg) (xd x1 : Reg) (s : State), mstatusFS s ≠ 0 →
    let a := unbox (readF rs1 s)
    let b := unbox (readF rs2 s)
    let a' := readF rs1 s
    let b' := readF rs2 s
    let SelectS (i : Instr) (r : BitVec 64 × BitVec 5) : Prop := GivesF i rd (box (r.1.setWidth 32)) r.2 s
    let SelectD (i : Instr) (r : BitVec 64 × BitVec 5) : Prop := GivesF i rd r.1 r.2 s
    let Compares (i : Instr) (r : Bool × BitVec 5) : Prop := GivesXFlags i xd (ofProp (r.1 = true)) r.2 s
    GivesF (.fsgnjS rd rs1 rs2) rd (box (b.extractLsb' 31 1 ++ a.extractLsb' 0 31)) 0 s
    ∧ GivesF (.fsgnjnS rd rs1 rs2) rd (box (~~~(b.extractLsb' 31 1) ++ a.extractLsb' 0 31)) 0 s
    ∧ GivesF (.fsgnjxS rd rs1 rs2) rd (box ((a.extractLsb' 31 1 ^^^ b.extractLsb' 31 1) ++ a.extractLsb' 0 31)) 0 s
    ∧ GivesF (.fsgnjD rd rs1 rs2) rd (b'.extractLsb' 63 1 ++ a'.extractLsb' 0 63) 0 s
    ∧ GivesF (.fsgnjnD rd rs1 rs2) rd (~~~(b'.extractLsb' 63 1) ++ a'.extractLsb' 0 63) 0 s
    ∧ GivesF (.fsgnjxD rd rs1 rs2) rd ((a'.extractLsb' 63 1 ^^^ b'.extractLsb' 63 1) ++ a'.extractLsb' 0 63) 0 s
    ∧ SelectS (.fminS rd rs1 rs2) (fpMinMax .s false (a.setWidth 64) (b.setWidth 64))
    ∧ SelectS (.fmaxS rd rs1 rs2) (fpMinMax .s true (a.setWidth 64) (b.setWidth 64))
    ∧ SelectD (.fminD rd rs1 rs2) (fpMinMax .d false a' b')
    ∧ SelectD (.fmaxD rd rs1 rs2) (fpMinMax .d true a' b')
    ∧ Compares (.feqS xd rs1 rs2) (fpFeq .s (a.setWidth 64) (b.setWidth 64))
    ∧ Compares (.fltS xd rs1 rs2) (fpFlt .s (a.setWidth 64) (b.setWidth 64))
    ∧ Compares (.fleS xd rs1 rs2) (fpFle .s (a.setWidth 64) (b.setWidth 64))
    ∧ Compares (.feqD xd rs1 rs2) (fpFeq .d a' b')
    ∧ Compares (.fltD xd rs1 rs2) (fpFlt .d a' b')
    ∧ Compares (.fleD xd rs1 rs2) (fpFle .d a' b')
    ∧ GivesX (.fclassS xd rs1) xd (fpClass .s (a.setWidth 64)).toNat s
    ∧ GivesX (.fclassD xd rs1) xd (fpClass .d a').toNat s
    ∧ GivesX (.fmvXW xd rs1) xd (wrap32 a'.toNat) s
    ∧ GivesX (.fmvXD xd rs1) xd a'.toNat s
    ∧ GivesF (.fmvWX rd x1) rd (box (BitVec.ofNat 32 (lowU x1 s))) 0 s
    ∧ GivesF (.fmvDX rd x1) rd (readX x1 s) 0 s)
  ∧ ∀ (f : Fmt) (a : BitVec 64), IsPattern f a →
    let neg := signOf f a = true
    let pos := signOf f a = false
    (FpInf f a → neg → fpClass f a = 0x001) ∧ (FpInf f a → pos → fpClass f a = 0x080)
    ∧ (0 < expOf f a → expOf f a < topExp f → (neg → fpClass f a = 0x002) ∧ (pos → fpClass f a = 0x040))
    ∧ (expOf f a = 0 → fracOf f a ≠ 0 → (neg → fpClass f a = 0x004) ∧ (pos → fpClass f a = 0x020))
    ∧ (FpZero f a → (neg → fpClass f a = 0x008) ∧ (pos → fpClass f a = 0x010))
    ∧ (FpSNaN f a → fpClass f a = 0x100) ∧ (FpNaN f a → ¬FpSNaN f a → fpClass f a = 0x200)

/-- 47_float_f.md rules R684 to R688: for operands that are finite, a comparison is that of their values, and minimum
and maximum give the operand whose value is the smaller or greater; no flag is raised. For all operands: a NaN compares
false and an infinity by its sign; FEQ raises NV for a signaling NaN, FLT and FLE for any NaN; minimum and maximum pass
over one NaN, give the canonical one for two, raise NV for a signaling one, and order -0 below +0. -/
def Obligations.ComparisonsAgreeWithValues : Prop :=
  (∀ (f : Fmt) (a b : BitVec 64), fpFinite f a → fpFinite f b →
    ((fpFeq f a b).1 = true ↔ fpValue f a = fpValue f b)
    ∧ ((fpFlt f a b).1 = true ↔ fpValue f a < fpValue f b)
    ∧ ((fpFle f a b).1 = true ↔ fpValue f a ≤ fpValue f b)
    ∧ fpValue f (fpMinMax f false a b).1 = min (fpValue f a) (fpValue f b)
    ∧ fpValue f (fpMinMax f true a b).1 = max (fpValue f a) (fpValue f b)
    ∧ (fpFeq f a b).2 = 0 ∧ (fpFlt f a b).2 = 0 ∧ (fpFle f a b).2 = 0 ∧ (fpMinMax f false a b).2 = 0
    ∧ (fpMinMax f true a b).2 = 0)
  ∧ ∀ (f : Fmt) (a b : BitVec 64), IsPattern f a → IsPattern f b →
    let nan := FpNaN f a ∨ FpNaN f b
    let signaling := FpSNaN f a ∨ FpSNaN f b
    let less (a b : BitVec 64) : Prop := (a = infPattern f true ∧ b ≠ infPattern f true)
      ∨ (b = infPattern f false ∧ a ≠ infPattern f false)
      ∨ (fpFinite f a ∧ fpFinite f b ∧ fpValue f a < fpValue f b)
    let quietFlags : BitVec 5 := if signaling then 0b10000#5 else 0
    let signalingFlags : BitVec 5 := if nan then 0b10000#5 else 0
    ((fpFeq f a b).1 = true ↔ ¬nan ∧ (a = b ∨ (FpZero f a ∧ FpZero f b))) ∧ (fpFeq f a b).2 = quietFlags
    ∧ ((fpFlt f a b).1 = true ↔ ¬nan ∧ less a b) ∧ (fpFlt f a b).2 = signalingFlags
    ∧ ((fpFle f a b).1 = true ↔ ¬nan ∧ ¬less b a) ∧ (fpFle f a b).2 = signalingFlags
    ∧ ∀ isMax : Bool, (fpMinMax f isMax a b).2 = quietFlags
      ∧ (FpNaN f a → FpNaN f b → (fpMinMax f isMax a b).1 = quietPattern f)
      ∧ (FpNaN f a → ¬FpNaN f b → (fpMinMax f isMax a b).1 = b)
      ∧ (¬FpNaN f a → FpNaN f b → (fpMinMax f isMax a b).1 = a)
      ∧ (FpZero f a → FpZero f b → a ≠ b → (fpMinMax f isMax a b).1 = zeroPattern f (!isMax))
      ∧ (¬FpNaN f a → (fpMinMax f isMax a a).1 = a)
      ∧ (¬nan → less a b → (fpMinMax f isMax a b).1 = if isMax then b else a)
      ∧ (¬nan → less b a → (fpMinMax f isMax a b).1 = if isMax then a else b)

/-- 47_float_f.md rules R667 to R669, R672 to R680, 48_float_d.md rules R741, R742, for the default `FpArith`: an
operation that produces a NaN produces the canonical one, and where NV is raised by an operation with a floating-point
result that result is the canonical NaN and no other flag is raised. Which operands do so: a NaN, with NV for a signaling
one or an invalid product, and the invalid cases of rule R668; and what infinities and a division by zero give, where
nothing is invalid. -/
def Obligations.ArithmeticOnNaNsAndInfinities : Prop :=
  (∀ (op : FpOp) (f : Fmt) (rm : Rm) (a b c : BitVec 64), (∀ w sg, op ≠ .cvtF2I w sg) →
    (isNaN f (ieeeArith op f rm a b c).1 = true → (ieeeArith op f rm a b c).1 = canonNaN f)
    ∧ ((ieeeArith op f rm a b c).2.getLsbD 4 = true →
        (ieeeArith op f rm a b c).1 = canonNaN f ∧ (ieeeArith op f rm a b c).2 = 16))
  ∧ (∀ f, canonNaN f = quietPattern f ∧ ∀ v, IsPattern f v → (isNaN f v = true ↔ FpNaN f v))
  ∧ ∀ (f : Fmt) (rm : Rm) (a b c : BitVec 64), IsPattern f a → IsPattern f b → IsPattern f c →
    let nan : BitVec 64 × BitVec 5 := (quietPattern f, 0)
    let invalid : BitVec 64 × BitVec 5 := (quietPattern f, 0b10000)
    let sign := signOf f a != signOf f b
    let ab := [ieeeAdd f rm a b, ieeeSub f rm a b, ieeeMul f rm a b, ieeeDiv f rm a b]
    let fma (negProduct negAddend : Bool) := ieeeFma f rm negProduct negAddend a b c
    let badProduct := (FpInf f a ∧ FpZero f b) ∨ (FpZero f a ∧ FpInf f b)
    (FpNaN f a ∨ FpNaN f b → ∀ r ∈ ab, r = if FpSNaN f a ∨ FpSNaN f b then invalid else nan)
    ∧ (FpNaN f a → ieeeSqrt f rm a = if FpSNaN f a then invalid else nan)
    ∧ (FpNaN f a ∨ FpNaN f b ∨ FpNaN f c → ∀ p q, fma p q =
        if FpSNaN f a ∨ FpSNaN f b ∨ FpSNaN f c ∨ badProduct then invalid else nan)
    ∧ (FpInf f a → FpInf f b → ieeeAdd f rm a b = (if sign then invalid else (a, 0))
        ∧ ieeeSub f rm a b = (if sign then (a, 0) else invalid) ∧ ieeeDiv f rm a b = invalid
        ∧ ieeeMul f rm a b = (infPattern f sign, 0))
    ∧ (FpInf f a → fpFinite f b → ieeeAdd f rm a b = (a, 0) ∧ ieeeSub f rm a b = (a, 0)
        ∧ ieeeDiv f rm a b = (infPattern f sign, 0)
        ∧ ieeeMul f rm a b = (if fpValue f b = 0 then invalid else (infPattern f sign, 0)))
    ∧ (fpFinite f a → FpInf f b → ieeeAdd f rm a b = (b, 0) ∧ ieeeSub f rm a b = (infPattern f (!signOf f b), 0)
        ∧ ieeeDiv f rm a b = (zeroPattern f sign, 0)
        ∧ ieeeMul f rm a b = (if fpValue f a = 0 then invalid else (infPattern f sign, 0)))
    ∧ (fpFinite f a → FpZero f b →
        ieeeDiv f rm a b = if fpValue f a = 0 then invalid else (infPattern f sign, 0b01000))
    ∧ (FpInf f a → ieeeSqrt f rm a = if signOf f a then invalid else (a, 0))
    ∧ (fpFinite f a → fpValue f a < 0 → ieeeSqrt f rm a = invalid)
    ∧ (¬FpNaN f a → ¬FpNaN f b → ¬FpNaN f c → ∀ negProduct negAddend : Bool,
        let psign := sign != negProduct
        let csign := signOf f c != negAddend
        (badProduct → fma negProduct negAddend = invalid)
        ∧ (¬badProduct → FpInf f a ∨ FpInf f b → fma negProduct negAddend =
            if FpInf f c ∧ psign ≠ csign then invalid else (infPattern f psign, 0))
        ∧ (fpFinite f a → fpFinite f b → FpInf f c → fma negProduct negAddend = (infPattern f csign, 0)))
    ∧ (∀ d, IsPattern f.other d →
        (FpNaN f.other d → ieeeCvt f rm d = if FpSNaN f.other d then invalid else nan)
        ∧ (FpInf f.other d → ieeeCvt f rm d = (infPattern f (signOf f.other d), 0)))

/-- 47_float_f.md rules R661, R665, R668, R669, R672 to R680, R694 to R697, 48_float_d.md rules R741, R742, R747 to R750,
for the default `FpArith` and finite operands: the result and the flags are those of the exact result rounded once
(`RoundsTo` of Safety.lean), and a result that is exactly zero has the sign of rule R669 and no flag. So no flag means
an exact result. -/
def Obligations.ArithmeticRoundsTheExactResult : Prop :=
  ∀ (f : Fmt) (rm : Rm) (a b c : BitVec 64), rm.toNat < 5 → fpFinite f a → fpFinite f b → fpFinite f c →
    let va := fpValue f a
    let vb := fpValue f b
    let vc := fpValue f c
    let sign := signOf f a != signOf f b
    let Gives (x : ℚ) (zeroSign : Bool) (r : BitVec 64 × BitVec 5) : Prop :=
      (x ≠ 0 → RoundsTo f rm x r) ∧ (x = 0 → r = (zeroPattern f zeroSign, 0))
    let sumSign (p q : Bool) : Bool := if p = q then p else rm == 2
    ((ieeeAdd f rm a b).2 = 0 → fpValue f (ieeeAdd f rm a b).1 = va + vb)
    ∧ ((ieeeSub f rm a b).2 = 0 → fpValue f (ieeeSub f rm a b).1 = va - vb)
    ∧ ((ieeeMul f rm a b).2 = 0 → fpValue f (ieeeMul f rm a b).1 = va * vb)
    ∧ ((ieeeFma f rm false false a b c).2 = 0 → fpValue f (ieeeFma f rm false false a b c).1 = va * vb + vc)
    ∧ (vb ≠ 0 → (ieeeDiv f rm a b).2 = 0 → fpValue f (ieeeDiv f rm a b).1 * vb = va)
    ∧ Gives (va + vb) (sumSign (signOf f a) (signOf f b)) (ieeeArith .add f rm a b c)
    ∧ Gives (va - vb) (sumSign (signOf f a) (!signOf f b)) (ieeeArith .sub f rm a b c)
    ∧ Gives (va * vb) sign (ieeeArith .mul f rm a b c)
    ∧ (vb ≠ 0 → Gives (va / vb) sign (ieeeArith .div f rm a b c))
    ∧ (va = 0 → ieeeArith .sqrt f rm a b c = (a, 0))
    ∧ (0 < va → RoundsTo f rm (Real.sqrt va) (ieeeArith .sqrt f rm a b c))
    ∧ Gives (va * vb + vc) (sumSign sign (signOf f c)) (ieeeArith .fmadd f rm a b c)
    ∧ Gives (va * vb - vc) (sumSign sign (!signOf f c)) (ieeeArith .fmsub f rm a b c)
    ∧ Gives (-(va * vb) + vc) (sumSign (!sign) (signOf f c)) (ieeeArith .fnmsub f rm a b c)
    ∧ Gives (-(va * vb) - vc) (sumSign (!sign) (!signOf f c)) (ieeeArith .fnmadd f rm a b c)
    ∧ (∀ n : BitVec 64,
        Gives (signedOf 32 (n.toNat % 2 ^ 32)) false (ieeeArith (.cvtI2F 32 true) f rm n b c)
        ∧ Gives (n.toNat % 2 ^ 32 : Nat) false (ieeeArith (.cvtI2F 32 false) f rm n b c)
        ∧ Gives (signedOf 64 n.toNat) false (ieeeArith (.cvtI2F 64 true) f rm n b c)
        ∧ Gives n.toNat false (ieeeArith (.cvtI2F 64 false) f rm n b c))
    ∧ (∀ d, fpFinite f.other d → Gives (fpValue f.other d) (signOf f.other d) (ieeeArith .cvtF2F f rm d b c))

/-! ### Translation and protection -/

/-- 20_memory.md rule R231: translation and the PMP check use `priv` for every access type: Machine mode bypasses both,
and no bit of `mstatus` but SUM, whatever MPRV and MPP hold, changes either; SRET clears MPRV. -/
def Obligations.EffectivePrivilege : Prop :=
  ∀ (acc : Access) (slot : Slot) (va m : Word) (pa n : Nat) (s : State),
    (s.priv = .machine → translate acc slot va s = .ok va.toNat ∧ pmpOk acc pa n s = true)
    ∧ (bit m 18 = bit s.mstatus 18 →
        translate acc slot va { s with mstatus := m } = translate acc slot va s
        ∧ pmpOk acc pa n { s with mstatus := m } = pmpOk acc pa n s)
    ∧ bit (returnS s).mstatus 17 = false

/-- 20_memory.md rules R230, R232, R235, R240 and 10_state.md rule R99: which mode `satp` selects, with its levels, entry
size, VPN bits and PPN bits; with `satp` Bare the address is the virtual one; with Sv39 an address whose top bits do not
repeat bit 38 is a page fault before the walk; in Sv48 and Sv57 the top bits are ignored; otherwise the translation is
the walk from the highest level at the root table. -/
def Obligations.TranslationModes : Prop :=
  (∀ satp : Word,
    satpMode .rv32 satp = (if bit satp 31 then some ⟨2, 4, 10, 22⟩ else none)
    ∧ satpMode .rv64 satp =
      (if satp.extractLsb' 60 4 = 8 then some ⟨3, 8, 9, 44⟩ else if satp.extractLsb' 60 4 = 9 then some ⟨4, 8, 9, 44⟩
       else if satp.extractLsb' 60 4 = 10 then some ⟨5, 8, 9, 44⟩ else none))
  ∧ ∀ (acc : Access) (slot : Slot) (va va' : Word) (s : State), s.priv ≠ .machine →
    (satpMode s.cfg.xlen s.satp = none → translate acc slot va s = .ok va.toNat)
    ∧ (satpMode s.cfg.xlen s.satp = some sv39 → (∃ k, 39 ≤ k ∧ k < 64 ∧ bit va k ≠ bit va 38) →
        translate acc slot va s = .error .pageFault)
    ∧ (satpMode s.cfg.xlen s.satp = some sv48 → va.extractLsb' 0 48 = va'.extractLsb' 0 48 →
        translate acc slot va s = translate acc slot va' s)
    ∧ (satpMode s.cfg.xlen s.satp = some sv57 → va.extractLsb' 0 57 = va'.extractLsb' 0 57 →
        translate acc slot va s = translate acc slot va' s)
    ∧ ∀ m, satpMode s.cfg.xlen s.satp = some m → (m.levels = 3 → ∀ k, 39 ≤ k → k < 64 → bit va k = bit va 38) →
        translate acc slot va s = walkFrom m acc slot va s (m.levels - 1)
          (s.satp.toNat % (match s.cfg.xlen with | .rv32 => 2 ^ 22 | .rv64 => 2 ^ 44) * 4096)

/-- 20_memory.md rules R235 to R239: one level of the walk: what a table entry read there leads to, in the order of the
checks; the address a leaf of level `i` gives keeps the low `12 + VPNBITS * i` bits of the virtual address. Bits the
rules do not name change nothing. -/
def Obligations.WalkLevels : Prop :=
  ∀ (m : WalkMode) (acc : Access) (slot : Slot) (va pte : Word) (s : State) (i base : Nat),
    let entry := physRead slot (some i) (base + va.toNat / 2 ^ (12 + m.vpnBits * i) % 2 ^ m.vpnBits * m.pteSize)
      m.pteSize s
    let ppn := pte.toNat / 2 ^ 10 % 2 ^ m.ppnBits
    let leaf := bit pte 1 = true ∨ bit pte 3 = true
    let user : Prop := (s.priv = .user ∧ bit pte 4 = true) ∨ (s.priv = .supervisor ∧ bit pte 4 = false)
      ∨ (s.priv = .supervisor ∧ bit pte 4 = true ∧ bit s.mstatus 18 = true)
    let perm : Prop := bit pte (match acc with | .fetch => 3 | .load => 1 | .store => 2) = true
    let reserved : Prop := bit pte 0 = false ∨ (bit pte 1 = false ∧ bit pte 2 = true)
    (entry = none → walkFrom m acc slot va s i base = .error .accessFault)
    ∧ (entry = some pte → reserved → walkFrom m acc slot va s i base = .error .pageFault)
    ∧ (entry = some pte → ¬reserved → ¬leaf → i = 0 → walkFrom m acc slot va s i base = .error .pageFault)
    ∧ (entry = some pte → ¬reserved → ¬leaf → ∀ j, i = j + 1 →
        walkFrom m acc slot va s i base = walkFrom m acc slot va s j (ppn * 4096))
    ∧ (entry = some pte → ¬reserved → leaf → ppn % 2 ^ (m.vpnBits * i) ≠ 0 →
        walkFrom m acc slot va s i base = .error .pageFault)
    ∧ (entry = some pte → ¬reserved → leaf → ppn % 2 ^ (m.vpnBits * i) = 0 → ¬user →
        walkFrom m acc slot va s i base = .error .pageFault)
    ∧ (entry = some pte → ¬reserved → leaf → ppn % 2 ^ (m.vpnBits * i) = 0 → user → ¬perm →
        walkFrom m acc slot va s i base = .error .accessFault)
    ∧ (entry = some pte → ¬reserved → leaf → ppn % 2 ^ (m.vpnBits * i) = 0 → user → perm →
        walkFrom m acc slot va s i base = .ok (ppn * 4096 + va.toNat % 2 ^ (12 + m.vpnBits * i)))

/-- 20_memory.md rule R241, 10_state.md rule R110: outside Machine mode an access is permitted exactly when the first
range that overlaps it contains it and has the permission; without one it is not. The range of an entry, by its matching
mode: none for OFF; from the previous address for TOR, none where inverted; four bytes for NA4; the block its address
encodes for a naturally aligned power of two, all of memory where the address is all ones. -/
def Obligations.PmpFirstMatchDecides : Prop :=
  ∀ (acc : Access) (pa n : Nat) (s : State), 0 < n → s.priv ≠ .machine →
    let overlaps (k : Fin 64) : Prop := ∃ a b, pmpRange s k = some (a, b) ∧ a < b ∧ pa < b ∧ a < pa + n
    (pmpOk acc pa n s = true ↔ ∃ k a b, pmpRange s k = some (a, b) ∧ a ≤ pa ∧ pa + n ≤ b
      ∧ s.pmpcfg[k].getLsbD (match acc with | .load => 0 | .store => 1 | .fetch => 2) = true
      ∧ ∀ j, j < k → ¬overlaps j)
    ∧ (∀ (k : Fin 64) (base g : Nat), s.pmpcfg[k].extractLsb' 3 2 = 3 → base % 2 ^ (g + 3) = 0 →
        g < pmpWidth s.cfg.xlen → s.pmpaddr[k].toNat = base / 4 + (2 ^ g - 1) →
        pmpRange s k = some (base, base + 2 ^ (g + 3)))
    ∧ ∀ k : Fin 64,
      let address (j : Fin 64) : Nat := 4 * s.pmpaddr[j].toNat
      (s.pmpcfg[k].extractLsb' 3 2 = 0 → pmpRange s k = none)
      ∧ (s.pmpcfg[k].extractLsb' 3 2 = 1 → k = 0 → pmpRange s k = some (0, address k))
      ∧ (s.pmpcfg[k].extractLsb' 3 2 = 1 → ∀ j : Fin 64, j.val + 1 = k.val →
          pmpRange s k = if address j ≤ address k then some (address j, address k) else none)
      ∧ (s.pmpcfg[k].extractLsb' 3 2 = 2 → pmpRange s k = some (address k, address k + 4))
      ∧ (s.pmpcfg[k].extractLsb' 3 2 = 3 →
          s.pmpaddr[k].toNat = (match s.cfg.xlen with | .rv32 => 2 ^ 32 | .rv64 => 2 ^ 54) - 1 →
          pmpRange s k = some (0, match s.cfg.xlen with | .rv32 => 2 ^ 34 | .rv64 => 2 ^ 56))
end

