-- ==== Sys2Proof/Laws/Memory.lean ====
section
/-!
SUPPORT. Laws/Memory.lean: read after write, and the canonical form kept, for the maps and the memory of
Machine/Ops.lean.
-/

namespace Sys2Proof.Machine

variable {α : Type}

/-! ### Maps -/

@[simp] theorem mapLookup_mapInsert_same (k : Nat) (v : α) (m : List (Nat × α)) :
    mapLookup k (mapInsert k v m) = some v := by
  induction m with
  | nil => simp [mapInsert, mapLookup]
  | cons p m ih =>
    obtain ⟨j, w⟩ := p
    simp only [mapInsert]
    split
    · simp [mapLookup]
    · split
      · simp [mapLookup]
      · simp [mapLookup, *]

theorem mapLookup_mapInsert_other {k l : Nat} (h : l ≠ k) (v : α) (m : List (Nat × α)) :
    mapLookup l (mapInsert k v m) = mapLookup l m := by
  induction m with
  | nil => simp [mapInsert, mapLookup, h]
  | cons p m ih =>
    obtain ⟨j, w⟩ := p
    simp only [mapInsert]
    split
    · simp [mapLookup, h]
    · split
      · rename_i hkj
        subst hkj
        simp [mapLookup, h]
      · simp [mapLookup, ih]

@[simp] theorem mapLookup_mapErase_same (k : Nat) (m : List (Nat × α)) : mapLookup k (mapErase k m) = none := by
  induction m with
  | nil => rfl
  | cons p m ih =>
    obtain ⟨j, w⟩ := p
    simp only [mapErase]
    split
    · exact ih
    · simp [mapLookup, *]

theorem mapLookup_mapErase_other {k l : Nat} (h : l ≠ k) (m : List (Nat × α)) :
    mapLookup l (mapErase k m) = mapLookup l m := by
  induction m with
  | nil => rfl
  | cons p m ih =>
    obtain ⟨j, w⟩ := p
    simp only [mapErase]
    split
    · rename_i hkj
      subst hkj
      simp [mapLookup, h, ih]
    · simp [mapLookup, ih]

/-- Every entry of a map after an insertion is the new one or an old one. -/
theorem mem_mapInsert {k : Nat} {v : α} {m : List (Nat × α)} {p : Nat × α} (h : p ∈ mapInsert k v m) :
    p = (k, v) ∨ p ∈ m := by
  induction m with
  | nil => simpa [mapInsert] using h
  | cons q m ih =>
    obtain ⟨j, w⟩ := q
    simp only [mapInsert] at h
    split at h
    · simpa using h
    · split at h
      · rcases List.mem_cons.1 h with h | h
        · exact .inl h
        · exact .inr (List.mem_cons_of_mem _ h)
      · rcases List.mem_cons.1 h with h | h
        · exact .inr (by simp [h])
        · exact (ih h).imp id (List.mem_cons_of_mem _)

/-- Every entry of a map after a removal is an old one. -/
theorem mem_mapErase {k : Nat} {m : List (Nat × α)} {p : Nat × α} (h : p ∈ mapErase k m) : p ∈ m := by
  induction m with
  | nil => exact h
  | cons q m ih =>
    obtain ⟨j, w⟩ := q
    simp only [mapErase] at h
    split at h
    · exact List.mem_cons_of_mem _ (ih h)
    · rcases List.mem_cons.1 h with h | h
      · simp [h]
      · exact List.mem_cons_of_mem _ (ih h)

/-- An insertion keeps the keys strictly rising. -/
theorem keysSorted_mapInsert {k : Nat} {v : α} {m : List (Nat × α)} (h : keysSorted m) :
    keysSorted (mapInsert k v m) := by
  induction m with
  | nil => simp [mapInsert]
  | cons q m ih =>
    obtain ⟨j, w⟩ := q
    have hc := List.pairwise_cons.1 h
    simp only [mapInsert]
    split
    · rename_i hkj
      refine List.pairwise_cons.2 ⟨fun p hp => ?_, h⟩
      rcases List.mem_cons.1 hp with rfl | hp
      · exact hkj
      · exact Nat.lt_trans hkj (hc.1 p hp)
    · split
      · rename_i hkj
        subst hkj
        exact List.pairwise_cons.2 ⟨hc.1, hc.2⟩
      · refine List.pairwise_cons.2 ⟨fun p hp => ?_, ih hc.2⟩
        rcases mem_mapInsert hp with rfl | hp
        · simp only; omega
        · exact hc.1 p hp

/-- A removal keeps the keys strictly rising. -/
theorem keysSorted_mapErase {k : Nat} {m : List (Nat × α)} (h : keysSorted m) : keysSorted (mapErase k m) := by
  induction m with
  | nil => exact h
  | cons q m ih =>
    obtain ⟨j, w⟩ := q
    have hc := List.pairwise_cons.1 h
    simp only [mapErase]
    split
    · exact ih hc.2
    · exact List.pairwise_cons.2 ⟨fun p hp => hc.1 p (mem_mapErase hp), ih hc.2⟩

/-! ### Memory -/

@[simp] theorem readByte_writeByte_same (m : List Host.Cell) (a : Nat) (b : Byte) :
    readByte (writeByte m a b) a = b := by
  unfold readByte writeByte
  split
  · rename_i h; simp [h]
  · simp

theorem readByte_writeByte_other {a c : Nat} (h : c ≠ a) (m : List Host.Cell) (b : Byte) :
    readByte (writeByte m a b) c = readByte m c := by
  unfold readByte writeByte
  split
  · rw [mapLookup_mapErase_other h]
  · rw [mapLookup_mapInsert_other h]

/-- One stored byte keeps the canonical form. -/
theorem Memory.wf_writeByte {m : List Host.Cell} (h : Memory.wf m) (a : Nat) (b : Byte) :
    Memory.wf (writeByte m a b) := by
  unfold writeByte
  split
  · exact ⟨keysSorted_mapErase h.1, fun c hc => h.2 c (mem_mapErase hc)⟩
  · rename_i hb
    refine ⟨keysSorted_mapInsert h.1, fun c hc => ?_⟩
    rcases mem_mapInsert hc with rfl | hc
    · exact hb
    · exact h.2 c hc

/-- Stored bytes keep the canonical form. -/
theorem Memory.wf_writeBytes {m : List Host.Cell} (h : Memory.wf m) (a n : Nat) (v : Word) :
    Memory.wf (writeBytes m a n v) := by
  induction n generalizing m a v with
  | zero => exact h
  | succ n ih => exact ih (Memory.wf_writeByte h _ _) _ _

/-- A store changes no byte outside its own. -/
theorem readByte_writeBytes_outside {a n b : Nat} (h : b < a ∨ a + n ≤ b) (m : List Host.Cell) (v : Word) :
    readByte (writeBytes m a n v) b = readByte m b := by
  induction n generalizing m a v with
  | zero => rfl
  | succ n ih =>
    rw [writeBytes, ih (by omega), readByte_writeByte_other (by omega)]

/-- Byte `k` of a stored value. -/
theorem readByte_writeBytes_inside {n k : Nat} (h : k < n) (m : List Host.Cell) (a : Nat) (v : Word) :
    readByte (writeBytes m a n v) (a + k) = (v >>> (8 * k)).setWidth 8 := by
  induction n generalizing m a v k with
  | zero => omega
  | succ n ih =>
    rw [writeBytes]
    cases k with
    | zero => rw [readByte_writeBytes_outside (by omega)]; simp
    | succ k =>
      have := ih (k := k) (by omega) (writeByte m a (v.setWidth 8)) (a + 1) (v >>> 8)
      rw [show a + (k + 1) = a + 1 + k by omega, this, ← BitVec.shiftRight_add, show 8 + 8 * k = 8 * (k + 1) by omega]

/-- Byte `k` of a value read from memory. -/
theorem readBytes_getByte {n k : Nat} (h : k < n) (hn : n ≤ 8) (m : List Host.Cell) (a : Nat) :
    (readBytes m a n >>> (8 * k)).setWidth 8 = readByte m (a + k) := by
  induction n generalizing a k with
  | zero => omega
  | succ n ih =>
    apply BitVec.eq_of_getLsbD_eq
    intro i hi
    cases k with
    | zero =>
      simp [readBytes, hi]
    | succ k =>
      have := congrArg (·.getLsbD i) (ih (k := k) (by omega) (by omega) (a + 1))
      simp only [BitVec.getLsbD_setWidth, hi, decide_true, Bool.true_and, BitVec.getLsbD_ushiftRight] at this
      simp only [readBytes, BitVec.getLsbD_setWidth, hi, decide_true, Bool.true_and, BitVec.getLsbD_ushiftRight,
        BitVec.getLsbD_or, BitVec.getLsbD_shiftLeft]
      rw [show 8 * (k + 1) + i - 8 = 8 * k + i by omega, this, show a + (k + 1) = a + 1 + k by omega]
      have h1 : ¬ (8 * (k + 1) + i < 8) := by omega
      have h2 : 8 * (k + 1) + i < 64 := by omega
      have h3 : (readByte m a).getLsbD (8 * (k + 1) + i) = false := BitVec.getLsbD_of_ge _ _ (by omega)
      simp [h1, h2, h3]

/-- No bit of a value of `n` bytes stands above them. -/
theorem readBytes_lt (m : List Host.Cell) (a : Nat) {n : Nat} (hn : n ≤ 8) : (readBytes m a n).toNat < 2 ^ (8 * n) := by
  apply Nat.lt_pow_two_of_testBit
  intro i hi
  induction n generalizing a i with
  | zero => simp [readBytes]
  | succ n ih =>
    have := ih (a + 1) (by omega) (i - 8) (by omega)
    rw [BitVec.testBit_toNat] at this ⊢
    simp only [readBytes, BitVec.getLsbD_or, BitVec.getLsbD_shiftLeft, BitVec.getLsbD_setWidth]
    rw [this]
    have h3 : (readByte m a).getLsbD i = false := BitVec.getLsbD_of_ge _ _ (by omega)
    simp [h3]

/-- Reading where a value was stored gives its low bytes. -/
theorem readBytes_writeBytes_same {n : Nat} (hn : n ≤ 8) (m : List Host.Cell) (a : Nat) (v : Word) :
    (readBytes (writeBytes m a n v) a n).toNat = v.toNat % 2 ^ (8 * n) := by
  apply Nat.eq_of_testBit_eq
  intro i
  rw [Nat.testBit_mod_two_pow]
  by_cases hi : i < 8 * n
  · have hk : i / 8 < n := by omega
    have h1 := congrArg (·.getLsbD (i % 8)) (readBytes_getByte hk hn (writeBytes m a n v) a)
    rw [readByte_writeBytes_inside hk] at h1
    have hm : i % 8 < 8 := Nat.mod_lt _ (by omega)
    simp only [BitVec.getLsbD_setWidth, hm, decide_true, Bool.true_and, BitVec.getLsbD_ushiftRight,
      show 8 * (i / 8) + i % 8 = i by omega] at h1
    simp [hi, BitVec.testBit_toNat, h1]
  · have := readBytes_lt (writeBytes m a n v) a hn
    simp only [hi, decide_false, Bool.false_and]
    exact Nat.testBit_lt_two_pow (Nat.lt_of_lt_of_le this (Nat.pow_le_pow_right (by omega) (by omega)))

/-- A store elsewhere does not change what is read. -/
theorem readBytes_writeBytes_outside {a b n k : Nat} (h : b + k ≤ a ∨ a + n ≤ b) (m : List Host.Cell) (v : Word) :
    readBytes (writeBytes m a n v) b k = readBytes m b k := by
  induction k generalizing b with
  | zero => rfl
  | succ k ih => rw [readBytes, readBytes, ih (by omega), readByte_writeBytes_outside (by omega)]

end Sys2Proof.Machine
end

