-- ==== Sys2Proof/Laws/State.lean ====
section
/-!
SUPPORT. Laws/State.lean: the fields each named update leaves alone, one lemma per field and update, and what it does
to the others.
-/

namespace Sys2Proof.Machine

variable (s : State)

/-! ### `writeX` -/

@[simp] theorem writeX_cfg (r : Reg) (v : Word) : (writeX r v s).cfg = s.cfg := by unfold writeX; split <;> rfl
@[simp] theorem writeX_f (r : Reg) (v : Word) : (writeX r v s).f = s.f := by unfold writeX; split <;> rfl
@[simp] theorem writeX_pc (r : Reg) (v : Word) : (writeX r v s).pc = s.pc := by unfold writeX; split <;> rfl
@[simp] theorem writeX_npc (r : Reg) (v : Word) : (writeX r v s).npc = s.npc := by unfold writeX; split <;> rfl
@[simp] theorem writeX_priv (r : Reg) (v : Word) : (writeX r v s).priv = s.priv := by unfold writeX; split <;> rfl
@[simp] theorem writeX_runState (r : Reg) (v : Word) : (writeX r v s).runState = s.runState := by unfold writeX; split <;> rfl
@[simp] theorem writeX_haltCode (r : Reg) (v : Word) : (writeX r v s).haltCode = s.haltCode := by unfold writeX; split <;> rfl
@[simp] theorem writeX_haltPc (r : Reg) (v : Word) : (writeX r v s).haltPc = s.haltPc := by unfold writeX; split <;> rfl
@[simp] theorem writeX_trapPending (r : Reg) (v : Word) : (writeX r v s).trapPending = s.trapPending := by unfold writeX; split <;> rfl
@[simp] theorem writeX_mstatus (r : Reg) (v : Word) : (writeX r v s).mstatus = s.mstatus := by unfold writeX; split <;> rfl
@[simp] theorem writeX_misa (r : Reg) (v : Word) : (writeX r v s).misa = s.misa := by unfold writeX; split <;> rfl
@[simp] theorem writeX_medeleg (r : Reg) (v : Word) : (writeX r v s).medeleg = s.medeleg := by unfold writeX; split <;> rfl
@[simp] theorem writeX_medelegh (r : Reg) (v : Word) : (writeX r v s).medelegh = s.medelegh := by unfold writeX; split <;> rfl
@[simp] theorem writeX_mideleg (r : Reg) (v : Word) : (writeX r v s).mideleg = s.mideleg := by unfold writeX; split <;> rfl
@[simp] theorem writeX_mie (r : Reg) (v : Word) : (writeX r v s).mie = s.mie := by unfold writeX; split <;> rfl
@[simp] theorem writeX_mip (r : Reg) (v : Word) : (writeX r v s).mip = s.mip := by unfold writeX; split <;> rfl
@[simp] theorem writeX_mtvec (r : Reg) (v : Word) : (writeX r v s).mtvec = s.mtvec := by unfold writeX; split <;> rfl
@[simp] theorem writeX_mcounteren (r : Reg) (v : Word) : (writeX r v s).mcounteren = s.mcounteren := by unfold writeX; split <;> rfl
@[simp] theorem writeX_mscratch (r : Reg) (v : Word) : (writeX r v s).mscratch = s.mscratch := by unfold writeX; split <;> rfl
@[simp] theorem writeX_mepc (r : Reg) (v : Word) : (writeX r v s).mepc = s.mepc := by unfold writeX; split <;> rfl
@[simp] theorem writeX_mcause (r : Reg) (v : Word) : (writeX r v s).mcause = s.mcause := by unfold writeX; split <;> rfl
@[simp] theorem writeX_mtval (r : Reg) (v : Word) : (writeX r v s).mtval = s.mtval := by unfold writeX; split <;> rfl
@[simp] theorem writeX_mcycle (r : Reg) (v : Word) : (writeX r v s).mcycle = s.mcycle := by unfold writeX; split <;> rfl
@[simp] theorem writeX_minstret (r : Reg) (v : Word) : (writeX r v s).minstret = s.minstret := by unfold writeX; split <;> rfl
@[simp] theorem writeX_pmpcfg (r : Reg) (v : Word) : (writeX r v s).pmpcfg = s.pmpcfg := by unfold writeX; split <;> rfl
@[simp] theorem writeX_pmpaddr (r : Reg) (v : Word) : (writeX r v s).pmpaddr = s.pmpaddr := by unfold writeX; split <;> rfl
@[simp] theorem writeX_stvec (r : Reg) (v : Word) : (writeX r v s).stvec = s.stvec := by unfold writeX; split <;> rfl
@[simp] theorem writeX_scounteren (r : Reg) (v : Word) : (writeX r v s).scounteren = s.scounteren := by unfold writeX; split <;> rfl
@[simp] theorem writeX_sscratch (r : Reg) (v : Word) : (writeX r v s).sscratch = s.sscratch := by unfold writeX; split <;> rfl
@[simp] theorem writeX_sepc (r : Reg) (v : Word) : (writeX r v s).sepc = s.sepc := by unfold writeX; split <;> rfl
@[simp] theorem writeX_scause (r : Reg) (v : Word) : (writeX r v s).scause = s.scause := by unfold writeX; split <;> rfl
@[simp] theorem writeX_stval (r : Reg) (v : Word) : (writeX r v s).stval = s.stval := by unfold writeX; split <;> rfl
@[simp] theorem writeX_satp (r : Reg) (v : Word) : (writeX r v s).satp = s.satp := by unfold writeX; split <;> rfl
@[simp] theorem writeX_stimecmp (r : Reg) (v : Word) : (writeX r v s).stimecmp = s.stimecmp := by unfold writeX; split <;> rfl
@[simp] theorem writeX_fcsr (r : Reg) (v : Word) : (writeX r v s).fcsr = s.fcsr := by unfold writeX; split <;> rfl
@[simp] theorem writeX_mem (r : Reg) (v : Word) : (writeX r v s).mem = s.mem := by unfold writeX; split <;> rfl
@[simp] theorem writeX_resv (r : Reg) (v : Word) : (writeX r v s).resv = s.resv := by unfold writeX; split <;> rfl
@[simp] theorem writeX_icache (r : Reg) (v : Word) : (writeX r v s).icache = s.icache := by unfold writeX; split <;> rfl
@[simp] theorem writeX_pollCounter (r : Reg) (v : Word) : (writeX r v s).pollCounter = s.pollCounter := by unfold writeX; split <;> rfl
@[simp] theorem writeX_uptime (r : Reg) (v : Word) : (writeX r v s).uptime = s.uptime := by unfold writeX; split <;> rfl
@[simp] theorem writeX_timerDeadline (r : Reg) (v : Word) : (writeX r v s).timerDeadline = s.timerDeadline := by unfold writeX; split <;> rfl
@[simp] theorem writeX_env (r : Reg) (v : Word) : (writeX r v s).env = s.env := by unfold writeX; split <;> rfl
@[simp] theorem writeX_draws (r : Reg) (v : Word) : (writeX r v s).draws = s.draws := by unfold writeX; split <;> rfl
@[simp] theorem writeX_former (r : Reg) (v : Word) : (writeX r v s).former = s.former := by unfold writeX; split <;> rfl
@[simp] theorem writeX_wroteMcycle (r : Reg) (v : Word) : (writeX r v s).wroteMcycle = s.wroteMcycle := by unfold writeX; split <;> rfl
@[simp] theorem writeX_wroteMinstret (r : Reg) (v : Word) : (writeX r v s).wroteMinstret = s.wroteMinstret := by unfold writeX; split <;> rfl

/-! ### `writeF` -/

@[simp] theorem writeF_cfg (r : FReg) (v : BitVec 64) : (writeF r v s).cfg = s.cfg := rfl
@[simp] theorem writeF_x (r : FReg) (v : BitVec 64) : (writeF r v s).x = s.x := rfl
@[simp] theorem writeF_pc (r : FReg) (v : BitVec 64) : (writeF r v s).pc = s.pc := rfl
@[simp] theorem writeF_npc (r : FReg) (v : BitVec 64) : (writeF r v s).npc = s.npc := rfl
@[simp] theorem writeF_priv (r : FReg) (v : BitVec 64) : (writeF r v s).priv = s.priv := rfl
@[simp] theorem writeF_runState (r : FReg) (v : BitVec 64) : (writeF r v s).runState = s.runState := rfl
@[simp] theorem writeF_haltCode (r : FReg) (v : BitVec 64) : (writeF r v s).haltCode = s.haltCode := rfl
@[simp] theorem writeF_haltPc (r : FReg) (v : BitVec 64) : (writeF r v s).haltPc = s.haltPc := rfl
@[simp] theorem writeF_trapPending (r : FReg) (v : BitVec 64) : (writeF r v s).trapPending = s.trapPending := rfl
@[simp] theorem writeF_mstatus (r : FReg) (v : BitVec 64) : (writeF r v s).mstatus = s.mstatus := rfl
@[simp] theorem writeF_misa (r : FReg) (v : BitVec 64) : (writeF r v s).misa = s.misa := rfl
@[simp] theorem writeF_medeleg (r : FReg) (v : BitVec 64) : (writeF r v s).medeleg = s.medeleg := rfl
@[simp] theorem writeF_medelegh (r : FReg) (v : BitVec 64) : (writeF r v s).medelegh = s.medelegh := rfl
@[simp] theorem writeF_mideleg (r : FReg) (v : BitVec 64) : (writeF r v s).mideleg = s.mideleg := rfl
@[simp] theorem writeF_mie (r : FReg) (v : BitVec 64) : (writeF r v s).mie = s.mie := rfl
@[simp] theorem writeF_mip (r : FReg) (v : BitVec 64) : (writeF r v s).mip = s.mip := rfl
@[simp] theorem writeF_mtvec (r : FReg) (v : BitVec 64) : (writeF r v s).mtvec = s.mtvec := rfl
@[simp] theorem writeF_mcounteren (r : FReg) (v : BitVec 64) : (writeF r v s).mcounteren = s.mcounteren := rfl
@[simp] theorem writeF_mscratch (r : FReg) (v : BitVec 64) : (writeF r v s).mscratch = s.mscratch := rfl
@[simp] theorem writeF_mepc (r : FReg) (v : BitVec 64) : (writeF r v s).mepc = s.mepc := rfl
@[simp] theorem writeF_mcause (r : FReg) (v : BitVec 64) : (writeF r v s).mcause = s.mcause := rfl
@[simp] theorem writeF_mtval (r : FReg) (v : BitVec 64) : (writeF r v s).mtval = s.mtval := rfl
@[simp] theorem writeF_mcycle (r : FReg) (v : BitVec 64) : (writeF r v s).mcycle = s.mcycle := rfl
@[simp] theorem writeF_minstret (r : FReg) (v : BitVec 64) : (writeF r v s).minstret = s.minstret := rfl
@[simp] theorem writeF_pmpcfg (r : FReg) (v : BitVec 64) : (writeF r v s).pmpcfg = s.pmpcfg := rfl
@[simp] theorem writeF_pmpaddr (r : FReg) (v : BitVec 64) : (writeF r v s).pmpaddr = s.pmpaddr := rfl
@[simp] theorem writeF_stvec (r : FReg) (v : BitVec 64) : (writeF r v s).stvec = s.stvec := rfl
@[simp] theorem writeF_scounteren (r : FReg) (v : BitVec 64) : (writeF r v s).scounteren = s.scounteren := rfl
@[simp] theorem writeF_sscratch (r : FReg) (v : BitVec 64) : (writeF r v s).sscratch = s.sscratch := rfl
@[simp] theorem writeF_sepc (r : FReg) (v : BitVec 64) : (writeF r v s).sepc = s.sepc := rfl
@[simp] theorem writeF_scause (r : FReg) (v : BitVec 64) : (writeF r v s).scause = s.scause := rfl
@[simp] theorem writeF_stval (r : FReg) (v : BitVec 64) : (writeF r v s).stval = s.stval := rfl
@[simp] theorem writeF_satp (r : FReg) (v : BitVec 64) : (writeF r v s).satp = s.satp := rfl
@[simp] theorem writeF_stimecmp (r : FReg) (v : BitVec 64) : (writeF r v s).stimecmp = s.stimecmp := rfl
@[simp] theorem writeF_fcsr (r : FReg) (v : BitVec 64) : (writeF r v s).fcsr = s.fcsr := rfl
@[simp] theorem writeF_mem (r : FReg) (v : BitVec 64) : (writeF r v s).mem = s.mem := rfl
@[simp] theorem writeF_resv (r : FReg) (v : BitVec 64) : (writeF r v s).resv = s.resv := rfl
@[simp] theorem writeF_icache (r : FReg) (v : BitVec 64) : (writeF r v s).icache = s.icache := rfl
@[simp] theorem writeF_pollCounter (r : FReg) (v : BitVec 64) : (writeF r v s).pollCounter = s.pollCounter := rfl
@[simp] theorem writeF_uptime (r : FReg) (v : BitVec 64) : (writeF r v s).uptime = s.uptime := rfl
@[simp] theorem writeF_timerDeadline (r : FReg) (v : BitVec 64) : (writeF r v s).timerDeadline = s.timerDeadline := rfl
@[simp] theorem writeF_env (r : FReg) (v : BitVec 64) : (writeF r v s).env = s.env := rfl
@[simp] theorem writeF_draws (r : FReg) (v : BitVec 64) : (writeF r v s).draws = s.draws := rfl
@[simp] theorem writeF_former (r : FReg) (v : BitVec 64) : (writeF r v s).former = s.former := rfl
@[simp] theorem writeF_wroteMcycle (r : FReg) (v : BitVec 64) : (writeF r v s).wroteMcycle = s.wroteMcycle := rfl
@[simp] theorem writeF_wroteMinstret (r : FReg) (v : BitVec 64) : (writeF r v s).wroteMinstret = s.wroteMinstret := rfl

/-! ### `dirtyFS` -/

@[simp] theorem dirtyFS_cfg : (dirtyFS s).cfg = s.cfg := rfl
@[simp] theorem dirtyFS_x : (dirtyFS s).x = s.x := rfl
@[simp] theorem dirtyFS_f : (dirtyFS s).f = s.f := rfl
@[simp] theorem dirtyFS_pc : (dirtyFS s).pc = s.pc := rfl
@[simp] theorem dirtyFS_npc : (dirtyFS s).npc = s.npc := rfl
@[simp] theorem dirtyFS_priv : (dirtyFS s).priv = s.priv := rfl
@[simp] theorem dirtyFS_runState : (dirtyFS s).runState = s.runState := rfl
@[simp] theorem dirtyFS_haltCode : (dirtyFS s).haltCode = s.haltCode := rfl
@[simp] theorem dirtyFS_haltPc : (dirtyFS s).haltPc = s.haltPc := rfl
@[simp] theorem dirtyFS_trapPending : (dirtyFS s).trapPending = s.trapPending := rfl
@[simp] theorem dirtyFS_misa : (dirtyFS s).misa = s.misa := rfl
@[simp] theorem dirtyFS_medeleg : (dirtyFS s).medeleg = s.medeleg := rfl
@[simp] theorem dirtyFS_medelegh : (dirtyFS s).medelegh = s.medelegh := rfl
@[simp] theorem dirtyFS_mideleg : (dirtyFS s).mideleg = s.mideleg := rfl
@[simp] theorem dirtyFS_mie : (dirtyFS s).mie = s.mie := rfl
@[simp] theorem dirtyFS_mip : (dirtyFS s).mip = s.mip := rfl
@[simp] theorem dirtyFS_mtvec : (dirtyFS s).mtvec = s.mtvec := rfl
@[simp] theorem dirtyFS_mcounteren : (dirtyFS s).mcounteren = s.mcounteren := rfl
@[simp] theorem dirtyFS_mscratch : (dirtyFS s).mscratch = s.mscratch := rfl
@[simp] theorem dirtyFS_mepc : (dirtyFS s).mepc = s.mepc := rfl
@[simp] theorem dirtyFS_mcause : (dirtyFS s).mcause = s.mcause := rfl
@[simp] theorem dirtyFS_mtval : (dirtyFS s).mtval = s.mtval := rfl
@[simp] theorem dirtyFS_mcycle : (dirtyFS s).mcycle = s.mcycle := rfl
@[simp] theorem dirtyFS_minstret : (dirtyFS s).minstret = s.minstret := rfl
@[simp] theorem dirtyFS_pmpcfg : (dirtyFS s).pmpcfg = s.pmpcfg := rfl
@[simp] theorem dirtyFS_pmpaddr : (dirtyFS s).pmpaddr = s.pmpaddr := rfl
@[simp] theorem dirtyFS_stvec : (dirtyFS s).stvec = s.stvec := rfl
@[simp] theorem dirtyFS_scounteren : (dirtyFS s).scounteren = s.scounteren := rfl
@[simp] theorem dirtyFS_sscratch : (dirtyFS s).sscratch = s.sscratch := rfl
@[simp] theorem dirtyFS_sepc : (dirtyFS s).sepc = s.sepc := rfl
@[simp] theorem dirtyFS_scause : (dirtyFS s).scause = s.scause := rfl
@[simp] theorem dirtyFS_stval : (dirtyFS s).stval = s.stval := rfl
@[simp] theorem dirtyFS_satp : (dirtyFS s).satp = s.satp := rfl
@[simp] theorem dirtyFS_stimecmp : (dirtyFS s).stimecmp = s.stimecmp := rfl
@[simp] theorem dirtyFS_fcsr : (dirtyFS s).fcsr = s.fcsr := rfl
@[simp] theorem dirtyFS_mem : (dirtyFS s).mem = s.mem := rfl
@[simp] theorem dirtyFS_resv : (dirtyFS s).resv = s.resv := rfl
@[simp] theorem dirtyFS_icache : (dirtyFS s).icache = s.icache := rfl
@[simp] theorem dirtyFS_pollCounter : (dirtyFS s).pollCounter = s.pollCounter := rfl
@[simp] theorem dirtyFS_uptime : (dirtyFS s).uptime = s.uptime := rfl
@[simp] theorem dirtyFS_timerDeadline : (dirtyFS s).timerDeadline = s.timerDeadline := rfl
@[simp] theorem dirtyFS_env : (dirtyFS s).env = s.env := rfl
@[simp] theorem dirtyFS_draws : (dirtyFS s).draws = s.draws := rfl
@[simp] theorem dirtyFS_former : (dirtyFS s).former = s.former := rfl
@[simp] theorem dirtyFS_wroteMcycle : (dirtyFS s).wroteMcycle = s.wroteMcycle := rfl
@[simp] theorem dirtyFS_wroteMinstret : (dirtyFS s).wroteMinstret = s.wroteMinstret := rfl

/-! ### `accrue` -/

@[simp] theorem accrue_cfg (fl : BitVec 5) : (accrue fl s).cfg = s.cfg := by unfold accrue; split <;> rfl
@[simp] theorem accrue_x (fl : BitVec 5) : (accrue fl s).x = s.x := by unfold accrue; split <;> rfl
@[simp] theorem accrue_f (fl : BitVec 5) : (accrue fl s).f = s.f := by unfold accrue; split <;> rfl
@[simp] theorem accrue_pc (fl : BitVec 5) : (accrue fl s).pc = s.pc := by unfold accrue; split <;> rfl
@[simp] theorem accrue_npc (fl : BitVec 5) : (accrue fl s).npc = s.npc := by unfold accrue; split <;> rfl
@[simp] theorem accrue_priv (fl : BitVec 5) : (accrue fl s).priv = s.priv := by unfold accrue; split <;> rfl
@[simp] theorem accrue_runState (fl : BitVec 5) : (accrue fl s).runState = s.runState := by unfold accrue; split <;> rfl
@[simp] theorem accrue_haltCode (fl : BitVec 5) : (accrue fl s).haltCode = s.haltCode := by unfold accrue; split <;> rfl
@[simp] theorem accrue_haltPc (fl : BitVec 5) : (accrue fl s).haltPc = s.haltPc := by unfold accrue; split <;> rfl
@[simp] theorem accrue_trapPending (fl : BitVec 5) : (accrue fl s).trapPending = s.trapPending := by unfold accrue; split <;> rfl
@[simp] theorem accrue_misa (fl : BitVec 5) : (accrue fl s).misa = s.misa := by unfold accrue; split <;> rfl
@[simp] theorem accrue_medeleg (fl : BitVec 5) : (accrue fl s).medeleg = s.medeleg := by unfold accrue; split <;> rfl
@[simp] theorem accrue_medelegh (fl : BitVec 5) : (accrue fl s).medelegh = s.medelegh := by unfold accrue; split <;> rfl
@[simp] theorem accrue_mideleg (fl : BitVec 5) : (accrue fl s).mideleg = s.mideleg := by unfold accrue; split <;> rfl
@[simp] theorem accrue_mie (fl : BitVec 5) : (accrue fl s).mie = s.mie := by unfold accrue; split <;> rfl
@[simp] theorem accrue_mip (fl : BitVec 5) : (accrue fl s).mip = s.mip := by unfold accrue; split <;> rfl
@[simp] theorem accrue_mtvec (fl : BitVec 5) : (accrue fl s).mtvec = s.mtvec := by unfold accrue; split <;> rfl
@[simp] theorem accrue_mcounteren (fl : BitVec 5) : (accrue fl s).mcounteren = s.mcounteren := by unfold accrue; split <;> rfl
@[simp] theorem accrue_mscratch (fl : BitVec 5) : (accrue fl s).mscratch = s.mscratch := by unfold accrue; split <;> rfl
@[simp] theorem accrue_mepc (fl : BitVec 5) : (accrue fl s).mepc = s.mepc := by unfold accrue; split <;> rfl
@[simp] theorem accrue_mcause (fl : BitVec 5) : (accrue fl s).mcause = s.mcause := by unfold accrue; split <;> rfl
@[simp] theorem accrue_mtval (fl : BitVec 5) : (accrue fl s).mtval = s.mtval := by unfold accrue; split <;> rfl
@[simp] theorem accrue_mcycle (fl : BitVec 5) : (accrue fl s).mcycle = s.mcycle := by unfold accrue; split <;> rfl
@[simp] theorem accrue_minstret (fl : BitVec 5) : (accrue fl s).minstret = s.minstret := by unfold accrue; split <;> rfl
@[simp] theorem accrue_pmpcfg (fl : BitVec 5) : (accrue fl s).pmpcfg = s.pmpcfg := by unfold accrue; split <;> rfl
@[simp] theorem accrue_pmpaddr (fl : BitVec 5) : (accrue fl s).pmpaddr = s.pmpaddr := by unfold accrue; split <;> rfl
@[simp] theorem accrue_stvec (fl : BitVec 5) : (accrue fl s).stvec = s.stvec := by unfold accrue; split <;> rfl
@[simp] theorem accrue_scounteren (fl : BitVec 5) : (accrue fl s).scounteren = s.scounteren := by unfold accrue; split <;> rfl
@[simp] theorem accrue_sscratch (fl : BitVec 5) : (accrue fl s).sscratch = s.sscratch := by unfold accrue; split <;> rfl
@[simp] theorem accrue_sepc (fl : BitVec 5) : (accrue fl s).sepc = s.sepc := by unfold accrue; split <;> rfl
@[simp] theorem accrue_scause (fl : BitVec 5) : (accrue fl s).scause = s.scause := by unfold accrue; split <;> rfl
@[simp] theorem accrue_stval (fl : BitVec 5) : (accrue fl s).stval = s.stval := by unfold accrue; split <;> rfl
@[simp] theorem accrue_satp (fl : BitVec 5) : (accrue fl s).satp = s.satp := by unfold accrue; split <;> rfl
@[simp] theorem accrue_stimecmp (fl : BitVec 5) : (accrue fl s).stimecmp = s.stimecmp := by unfold accrue; split <;> rfl
@[simp] theorem accrue_mem (fl : BitVec 5) : (accrue fl s).mem = s.mem := by unfold accrue; split <;> rfl
@[simp] theorem accrue_resv (fl : BitVec 5) : (accrue fl s).resv = s.resv := by unfold accrue; split <;> rfl
@[simp] theorem accrue_icache (fl : BitVec 5) : (accrue fl s).icache = s.icache := by unfold accrue; split <;> rfl
@[simp] theorem accrue_pollCounter (fl : BitVec 5) : (accrue fl s).pollCounter = s.pollCounter := by unfold accrue; split <;> rfl
@[simp] theorem accrue_uptime (fl : BitVec 5) : (accrue fl s).uptime = s.uptime := by unfold accrue; split <;> rfl
@[simp] theorem accrue_timerDeadline (fl : BitVec 5) : (accrue fl s).timerDeadline = s.timerDeadline := by unfold accrue; split <;> rfl
@[simp] theorem accrue_env (fl : BitVec 5) : (accrue fl s).env = s.env := by unfold accrue; split <;> rfl
@[simp] theorem accrue_draws (fl : BitVec 5) : (accrue fl s).draws = s.draws := by unfold accrue; split <;> rfl
@[simp] theorem accrue_former (fl : BitVec 5) : (accrue fl s).former = s.former := by unfold accrue; split <;> rfl
@[simp] theorem accrue_wroteMcycle (fl : BitVec 5) : (accrue fl s).wroteMcycle = s.wroteMcycle := by unfold accrue; split <;> rfl
@[simp] theorem accrue_wroteMinstret (fl : BitVec 5) : (accrue fl s).wroteMinstret = s.wroteMinstret := by unfold accrue; split <;> rfl

/-! ### `writeFDirty` -/

@[simp] theorem writeFDirty_cfg (r : FReg) (v : BitVec 64) : (writeFDirty r v s).cfg = s.cfg := rfl
@[simp] theorem writeFDirty_x (r : FReg) (v : BitVec 64) : (writeFDirty r v s).x = s.x := rfl
@[simp] theorem writeFDirty_pc (r : FReg) (v : BitVec 64) : (writeFDirty r v s).pc = s.pc := rfl
@[simp] theorem writeFDirty_npc (r : FReg) (v : BitVec 64) : (writeFDirty r v s).npc = s.npc := rfl
@[simp] theorem writeFDirty_priv (r : FReg) (v : BitVec 64) : (writeFDirty r v s).priv = s.priv := rfl
@[simp] theorem writeFDirty_runState (r : FReg) (v : BitVec 64) : (writeFDirty r v s).runState = s.runState := rfl
@[simp] theorem writeFDirty_haltCode (r : FReg) (v : BitVec 64) : (writeFDirty r v s).haltCode = s.haltCode := rfl
@[simp] theorem writeFDirty_haltPc (r : FReg) (v : BitVec 64) : (writeFDirty r v s).haltPc = s.haltPc := rfl
@[simp] theorem writeFDirty_trapPending (r : FReg) (v : BitVec 64) : (writeFDirty r v s).trapPending = s.trapPending := rfl
@[simp] theorem writeFDirty_misa (r : FReg) (v : BitVec 64) : (writeFDirty r v s).misa = s.misa := rfl
@[simp] theorem writeFDirty_medeleg (r : FReg) (v : BitVec 64) : (writeFDirty r v s).medeleg = s.medeleg := rfl
@[simp] theorem writeFDirty_medelegh (r : FReg) (v : BitVec 64) : (writeFDirty r v s).medelegh = s.medelegh := rfl
@[simp] theorem writeFDirty_mideleg (r : FReg) (v : BitVec 64) : (writeFDirty r v s).mideleg = s.mideleg := rfl
@[simp] theorem writeFDirty_mie (r : FReg) (v : BitVec 64) : (writeFDirty r v s).mie = s.mie := rfl
@[simp] theorem writeFDirty_mip (r : FReg) (v : BitVec 64) : (writeFDirty r v s).mip = s.mip := rfl
@[simp] theorem writeFDirty_mtvec (r : FReg) (v : BitVec 64) : (writeFDirty r v s).mtvec = s.mtvec := rfl
@[simp] theorem writeFDirty_mcounteren (r : FReg) (v : BitVec 64) : (writeFDirty r v s).mcounteren = s.mcounteren := rfl
@[simp] theorem writeFDirty_mscratch (r : FReg) (v : BitVec 64) : (writeFDirty r v s).mscratch = s.mscratch := rfl
@[simp] theorem writeFDirty_mepc (r : FReg) (v : BitVec 64) : (writeFDirty r v s).mepc = s.mepc := rfl
@[simp] theorem writeFDirty_mcause (r : FReg) (v : BitVec 64) : (writeFDirty r v s).mcause = s.mcause := rfl
@[simp] theorem writeFDirty_mtval (r : FReg) (v : BitVec 64) : (writeFDirty r v s).mtval = s.mtval := rfl
@[simp] theorem writeFDirty_mcycle (r : FReg) (v : BitVec 64) : (writeFDirty r v s).mcycle = s.mcycle := rfl
@[simp] theorem writeFDirty_minstret (r : FReg) (v : BitVec 64) : (writeFDirty r v s).minstret = s.minstret := rfl
@[simp] theorem writeFDirty_pmpcfg (r : FReg) (v : BitVec 64) : (writeFDirty r v s).pmpcfg = s.pmpcfg := rfl
@[simp] theorem writeFDirty_pmpaddr (r : FReg) (v : BitVec 64) : (writeFDirty r v s).pmpaddr = s.pmpaddr := rfl
@[simp] theorem writeFDirty_stvec (r : FReg) (v : BitVec 64) : (writeFDirty r v s).stvec = s.stvec := rfl
@[simp] theorem writeFDirty_scounteren (r : FReg) (v : BitVec 64) : (writeFDirty r v s).scounteren = s.scounteren := rfl
@[simp] theorem writeFDirty_sscratch (r : FReg) (v : BitVec 64) : (writeFDirty r v s).sscratch = s.sscratch := rfl
@[simp] theorem writeFDirty_sepc (r : FReg) (v : BitVec 64) : (writeFDirty r v s).sepc = s.sepc := rfl
@[simp] theorem writeFDirty_scause (r : FReg) (v : BitVec 64) : (writeFDirty r v s).scause = s.scause := rfl
@[simp] theorem writeFDirty_stval (r : FReg) (v : BitVec 64) : (writeFDirty r v s).stval = s.stval := rfl
@[simp] theorem writeFDirty_satp (r : FReg) (v : BitVec 64) : (writeFDirty r v s).satp = s.satp := rfl
@[simp] theorem writeFDirty_stimecmp (r : FReg) (v : BitVec 64) : (writeFDirty r v s).stimecmp = s.stimecmp := rfl
@[simp] theorem writeFDirty_fcsr (r : FReg) (v : BitVec 64) : (writeFDirty r v s).fcsr = s.fcsr := rfl
@[simp] theorem writeFDirty_mem (r : FReg) (v : BitVec 64) : (writeFDirty r v s).mem = s.mem := rfl
@[simp] theorem writeFDirty_resv (r : FReg) (v : BitVec 64) : (writeFDirty r v s).resv = s.resv := rfl
@[simp] theorem writeFDirty_icache (r : FReg) (v : BitVec 64) : (writeFDirty r v s).icache = s.icache := rfl
@[simp] theorem writeFDirty_pollCounter (r : FReg) (v : BitVec 64) : (writeFDirty r v s).pollCounter = s.pollCounter := rfl
@[simp] theorem writeFDirty_uptime (r : FReg) (v : BitVec 64) : (writeFDirty r v s).uptime = s.uptime := rfl
@[simp] theorem writeFDirty_timerDeadline (r : FReg) (v : BitVec 64) : (writeFDirty r v s).timerDeadline = s.timerDeadline := rfl
@[simp] theorem writeFDirty_env (r : FReg) (v : BitVec 64) : (writeFDirty r v s).env = s.env := rfl
@[simp] theorem writeFDirty_draws (r : FReg) (v : BitVec 64) : (writeFDirty r v s).draws = s.draws := rfl
@[simp] theorem writeFDirty_former (r : FReg) (v : BitVec 64) : (writeFDirty r v s).former = s.former := rfl
@[simp] theorem writeFDirty_wroteMcycle (r : FReg) (v : BitVec 64) : (writeFDirty r v s).wroteMcycle = s.wroteMcycle := rfl
@[simp] theorem writeFDirty_wroteMinstret (r : FReg) (v : BitVec 64) : (writeFDirty r v s).wroteMinstret = s.wroteMinstret := rfl

/-! ### `jumpRel` -/

@[simp] theorem jumpRel_cfg (o : Word) : (jumpRel o s).cfg = s.cfg := rfl
@[simp] theorem jumpRel_x (o : Word) : (jumpRel o s).x = s.x := rfl
@[simp] theorem jumpRel_f (o : Word) : (jumpRel o s).f = s.f := rfl
@[simp] theorem jumpRel_pc (o : Word) : (jumpRel o s).pc = s.pc := rfl
@[simp] theorem jumpRel_priv (o : Word) : (jumpRel o s).priv = s.priv := rfl
@[simp] theorem jumpRel_runState (o : Word) : (jumpRel o s).runState = s.runState := rfl
@[simp] theorem jumpRel_haltCode (o : Word) : (jumpRel o s).haltCode = s.haltCode := rfl
@[simp] theorem jumpRel_haltPc (o : Word) : (jumpRel o s).haltPc = s.haltPc := rfl
@[simp] theorem jumpRel_trapPending (o : Word) : (jumpRel o s).trapPending = s.trapPending := rfl
@[simp] theorem jumpRel_mstatus (o : Word) : (jumpRel o s).mstatus = s.mstatus := rfl
@[simp] theorem jumpRel_misa (o : Word) : (jumpRel o s).misa = s.misa := rfl
@[simp] theorem jumpRel_medeleg (o : Word) : (jumpRel o s).medeleg = s.medeleg := rfl
@[simp] theorem jumpRel_medelegh (o : Word) : (jumpRel o s).medelegh = s.medelegh := rfl
@[simp] theorem jumpRel_mideleg (o : Word) : (jumpRel o s).mideleg = s.mideleg := rfl
@[simp] theorem jumpRel_mie (o : Word) : (jumpRel o s).mie = s.mie := rfl
@[simp] theorem jumpRel_mip (o : Word) : (jumpRel o s).mip = s.mip := rfl
@[simp] theorem jumpRel_mtvec (o : Word) : (jumpRel o s).mtvec = s.mtvec := rfl
@[simp] theorem jumpRel_mcounteren (o : Word) : (jumpRel o s).mcounteren = s.mcounteren := rfl
@[simp] theorem jumpRel_mscratch (o : Word) : (jumpRel o s).mscratch = s.mscratch := rfl
@[simp] theorem jumpRel_mepc (o : Word) : (jumpRel o s).mepc = s.mepc := rfl
@[simp] theorem jumpRel_mcause (o : Word) : (jumpRel o s).mcause = s.mcause := rfl
@[simp] theorem jumpRel_mtval (o : Word) : (jumpRel o s).mtval = s.mtval := rfl
@[simp] theorem jumpRel_mcycle (o : Word) : (jumpRel o s).mcycle = s.mcycle := rfl
@[simp] theorem jumpRel_minstret (o : Word) : (jumpRel o s).minstret = s.minstret := rfl
@[simp] theorem jumpRel_pmpcfg (o : Word) : (jumpRel o s).pmpcfg = s.pmpcfg := rfl
@[simp] theorem jumpRel_pmpaddr (o : Word) : (jumpRel o s).pmpaddr = s.pmpaddr := rfl
@[simp] theorem jumpRel_stvec (o : Word) : (jumpRel o s).stvec = s.stvec := rfl
@[simp] theorem jumpRel_scounteren (o : Word) : (jumpRel o s).scounteren = s.scounteren := rfl
@[simp] theorem jumpRel_sscratch (o : Word) : (jumpRel o s).sscratch = s.sscratch := rfl
@[simp] theorem jumpRel_sepc (o : Word) : (jumpRel o s).sepc = s.sepc := rfl
@[simp] theorem jumpRel_scause (o : Word) : (jumpRel o s).scause = s.scause := rfl
@[simp] theorem jumpRel_stval (o : Word) : (jumpRel o s).stval = s.stval := rfl
@[simp] theorem jumpRel_satp (o : Word) : (jumpRel o s).satp = s.satp := rfl
@[simp] theorem jumpRel_stimecmp (o : Word) : (jumpRel o s).stimecmp = s.stimecmp := rfl
@[simp] theorem jumpRel_fcsr (o : Word) : (jumpRel o s).fcsr = s.fcsr := rfl
@[simp] theorem jumpRel_mem (o : Word) : (jumpRel o s).mem = s.mem := rfl
@[simp] theorem jumpRel_resv (o : Word) : (jumpRel o s).resv = s.resv := rfl
@[simp] theorem jumpRel_icache (o : Word) : (jumpRel o s).icache = s.icache := rfl
@[simp] theorem jumpRel_pollCounter (o : Word) : (jumpRel o s).pollCounter = s.pollCounter := rfl
@[simp] theorem jumpRel_uptime (o : Word) : (jumpRel o s).uptime = s.uptime := rfl
@[simp] theorem jumpRel_timerDeadline (o : Word) : (jumpRel o s).timerDeadline = s.timerDeadline := rfl
@[simp] theorem jumpRel_env (o : Word) : (jumpRel o s).env = s.env := rfl
@[simp] theorem jumpRel_draws (o : Word) : (jumpRel o s).draws = s.draws := rfl
@[simp] theorem jumpRel_former (o : Word) : (jumpRel o s).former = s.former := rfl
@[simp] theorem jumpRel_wroteMcycle (o : Word) : (jumpRel o s).wroteMcycle = s.wroteMcycle := rfl
@[simp] theorem jumpRel_wroteMinstret (o : Word) : (jumpRel o s).wroteMinstret = s.wroteMinstret := rfl

/-! ### `jumpTo` -/

@[simp] theorem jumpTo_cfg (a : Word) : (jumpTo a s).cfg = s.cfg := rfl
@[simp] theorem jumpTo_x (a : Word) : (jumpTo a s).x = s.x := rfl
@[simp] theorem jumpTo_f (a : Word) : (jumpTo a s).f = s.f := rfl
@[simp] theorem jumpTo_pc (a : Word) : (jumpTo a s).pc = s.pc := rfl
@[simp] theorem jumpTo_priv (a : Word) : (jumpTo a s).priv = s.priv := rfl
@[simp] theorem jumpTo_runState (a : Word) : (jumpTo a s).runState = s.runState := rfl
@[simp] theorem jumpTo_haltCode (a : Word) : (jumpTo a s).haltCode = s.haltCode := rfl
@[simp] theorem jumpTo_haltPc (a : Word) : (jumpTo a s).haltPc = s.haltPc := rfl
@[simp] theorem jumpTo_trapPending (a : Word) : (jumpTo a s).trapPending = s.trapPending := rfl
@[simp] theorem jumpTo_mstatus (a : Word) : (jumpTo a s).mstatus = s.mstatus := rfl
@[simp] theorem jumpTo_misa (a : Word) : (jumpTo a s).misa = s.misa := rfl
@[simp] theorem jumpTo_medeleg (a : Word) : (jumpTo a s).medeleg = s.medeleg := rfl
@[simp] theorem jumpTo_medelegh (a : Word) : (jumpTo a s).medelegh = s.medelegh := rfl
@[simp] theorem jumpTo_mideleg (a : Word) : (jumpTo a s).mideleg = s.mideleg := rfl
@[simp] theorem jumpTo_mie (a : Word) : (jumpTo a s).mie = s.mie := rfl
@[simp] theorem jumpTo_mip (a : Word) : (jumpTo a s).mip = s.mip := rfl
@[simp] theorem jumpTo_mtvec (a : Word) : (jumpTo a s).mtvec = s.mtvec := rfl
@[simp] theorem jumpTo_mcounteren (a : Word) : (jumpTo a s).mcounteren = s.mcounteren := rfl
@[simp] theorem jumpTo_mscratch (a : Word) : (jumpTo a s).mscratch = s.mscratch := rfl
@[simp] theorem jumpTo_mepc (a : Word) : (jumpTo a s).mepc = s.mepc := rfl
@[simp] theorem jumpTo_mcause (a : Word) : (jumpTo a s).mcause = s.mcause := rfl
@[simp] theorem jumpTo_mtval (a : Word) : (jumpTo a s).mtval = s.mtval := rfl
@[simp] theorem jumpTo_mcycle (a : Word) : (jumpTo a s).mcycle = s.mcycle := rfl
@[simp] theorem jumpTo_minstret (a : Word) : (jumpTo a s).minstret = s.minstret := rfl
@[simp] theorem jumpTo_pmpcfg (a : Word) : (jumpTo a s).pmpcfg = s.pmpcfg := rfl
@[simp] theorem jumpTo_pmpaddr (a : Word) : (jumpTo a s).pmpaddr = s.pmpaddr := rfl
@[simp] theorem jumpTo_stvec (a : Word) : (jumpTo a s).stvec = s.stvec := rfl
@[simp] theorem jumpTo_scounteren (a : Word) : (jumpTo a s).scounteren = s.scounteren := rfl
@[simp] theorem jumpTo_sscratch (a : Word) : (jumpTo a s).sscratch = s.sscratch := rfl
@[simp] theorem jumpTo_sepc (a : Word) : (jumpTo a s).sepc = s.sepc := rfl
@[simp] theorem jumpTo_scause (a : Word) : (jumpTo a s).scause = s.scause := rfl
@[simp] theorem jumpTo_stval (a : Word) : (jumpTo a s).stval = s.stval := rfl
@[simp] theorem jumpTo_satp (a : Word) : (jumpTo a s).satp = s.satp := rfl
@[simp] theorem jumpTo_stimecmp (a : Word) : (jumpTo a s).stimecmp = s.stimecmp := rfl
@[simp] theorem jumpTo_fcsr (a : Word) : (jumpTo a s).fcsr = s.fcsr := rfl
@[simp] theorem jumpTo_mem (a : Word) : (jumpTo a s).mem = s.mem := rfl
@[simp] theorem jumpTo_resv (a : Word) : (jumpTo a s).resv = s.resv := rfl
@[simp] theorem jumpTo_icache (a : Word) : (jumpTo a s).icache = s.icache := rfl
@[simp] theorem jumpTo_pollCounter (a : Word) : (jumpTo a s).pollCounter = s.pollCounter := rfl
@[simp] theorem jumpTo_uptime (a : Word) : (jumpTo a s).uptime = s.uptime := rfl
@[simp] theorem jumpTo_timerDeadline (a : Word) : (jumpTo a s).timerDeadline = s.timerDeadline := rfl
@[simp] theorem jumpTo_env (a : Word) : (jumpTo a s).env = s.env := rfl
@[simp] theorem jumpTo_draws (a : Word) : (jumpTo a s).draws = s.draws := rfl
@[simp] theorem jumpTo_former (a : Word) : (jumpTo a s).former = s.former := rfl
@[simp] theorem jumpTo_wroteMcycle (a : Word) : (jumpTo a s).wroteMcycle = s.wroteMcycle := rfl
@[simp] theorem jumpTo_wroteMinstret (a : Word) : (jumpTo a s).wroteMinstret = s.wroteMinstret := rfl

/-! ### `branch` -/

@[simp] theorem branch_cfg (b : Bool) (o : Word) : (branch b o s).cfg = s.cfg := by unfold branch; split <;> rfl
@[simp] theorem branch_x (b : Bool) (o : Word) : (branch b o s).x = s.x := by unfold branch; split <;> rfl
@[simp] theorem branch_f (b : Bool) (o : Word) : (branch b o s).f = s.f := by unfold branch; split <;> rfl
@[simp] theorem branch_pc (b : Bool) (o : Word) : (branch b o s).pc = s.pc := by unfold branch; split <;> rfl
@[simp] theorem branch_priv (b : Bool) (o : Word) : (branch b o s).priv = s.priv := by unfold branch; split <;> rfl
@[simp] theorem branch_runState (b : Bool) (o : Word) : (branch b o s).runState = s.runState := by unfold branch; split <;> rfl
@[simp] theorem branch_haltCode (b : Bool) (o : Word) : (branch b o s).haltCode = s.haltCode := by unfold branch; split <;> rfl
@[simp] theorem branch_haltPc (b : Bool) (o : Word) : (branch b o s).haltPc = s.haltPc := by unfold branch; split <;> rfl
@[simp] theorem branch_trapPending (b : Bool) (o : Word) : (branch b o s).trapPending = s.trapPending := by unfold branch; split <;> rfl
@[simp] theorem branch_mstatus (b : Bool) (o : Word) : (branch b o s).mstatus = s.mstatus := by unfold branch; split <;> rfl
@[simp] theorem branch_misa (b : Bool) (o : Word) : (branch b o s).misa = s.misa := by unfold branch; split <;> rfl
@[simp] theorem branch_medeleg (b : Bool) (o : Word) : (branch b o s).medeleg = s.medeleg := by unfold branch; split <;> rfl
@[simp] theorem branch_medelegh (b : Bool) (o : Word) : (branch b o s).medelegh = s.medelegh := by unfold branch; split <;> rfl
@[simp] theorem branch_mideleg (b : Bool) (o : Word) : (branch b o s).mideleg = s.mideleg := by unfold branch; split <;> rfl
@[simp] theorem branch_mie (b : Bool) (o : Word) : (branch b o s).mie = s.mie := by unfold branch; split <;> rfl
@[simp] theorem branch_mip (b : Bool) (o : Word) : (branch b o s).mip = s.mip := by unfold branch; split <;> rfl
@[simp] theorem branch_mtvec (b : Bool) (o : Word) : (branch b o s).mtvec = s.mtvec := by unfold branch; split <;> rfl
@[simp] theorem branch_mcounteren (b : Bool) (o : Word) : (branch b o s).mcounteren = s.mcounteren := by unfold branch; split <;> rfl
@[simp] theorem branch_mscratch (b : Bool) (o : Word) : (branch b o s).mscratch = s.mscratch := by unfold branch; split <;> rfl
@[simp] theorem branch_mepc (b : Bool) (o : Word) : (branch b o s).mepc = s.mepc := by unfold branch; split <;> rfl
@[simp] theorem branch_mcause (b : Bool) (o : Word) : (branch b o s).mcause = s.mcause := by unfold branch; split <;> rfl
@[simp] theorem branch_mtval (b : Bool) (o : Word) : (branch b o s).mtval = s.mtval := by unfold branch; split <;> rfl
@[simp] theorem branch_mcycle (b : Bool) (o : Word) : (branch b o s).mcycle = s.mcycle := by unfold branch; split <;> rfl
@[simp] theorem branch_minstret (b : Bool) (o : Word) : (branch b o s).minstret = s.minstret := by unfold branch; split <;> rfl
@[simp] theorem branch_pmpcfg (b : Bool) (o : Word) : (branch b o s).pmpcfg = s.pmpcfg := by unfold branch; split <;> rfl
@[simp] theorem branch_pmpaddr (b : Bool) (o : Word) : (branch b o s).pmpaddr = s.pmpaddr := by unfold branch; split <;> rfl
@[simp] theorem branch_stvec (b : Bool) (o : Word) : (branch b o s).stvec = s.stvec := by unfold branch; split <;> rfl
@[simp] theorem branch_scounteren (b : Bool) (o : Word) : (branch b o s).scounteren = s.scounteren := by unfold branch; split <;> rfl
@[simp] theorem branch_sscratch (b : Bool) (o : Word) : (branch b o s).sscratch = s.sscratch := by unfold branch; split <;> rfl
@[simp] theorem branch_sepc (b : Bool) (o : Word) : (branch b o s).sepc = s.sepc := by unfold branch; split <;> rfl
@[simp] theorem branch_scause (b : Bool) (o : Word) : (branch b o s).scause = s.scause := by unfold branch; split <;> rfl
@[simp] theorem branch_stval (b : Bool) (o : Word) : (branch b o s).stval = s.stval := by unfold branch; split <;> rfl
@[simp] theorem branch_satp (b : Bool) (o : Word) : (branch b o s).satp = s.satp := by unfold branch; split <;> rfl
@[simp] theorem branch_stimecmp (b : Bool) (o : Word) : (branch b o s).stimecmp = s.stimecmp := by unfold branch; split <;> rfl
@[simp] theorem branch_fcsr (b : Bool) (o : Word) : (branch b o s).fcsr = s.fcsr := by unfold branch; split <;> rfl
@[simp] theorem branch_mem (b : Bool) (o : Word) : (branch b o s).mem = s.mem := by unfold branch; split <;> rfl
@[simp] theorem branch_resv (b : Bool) (o : Word) : (branch b o s).resv = s.resv := by unfold branch; split <;> rfl
@[simp] theorem branch_icache (b : Bool) (o : Word) : (branch b o s).icache = s.icache := by unfold branch; split <;> rfl
@[simp] theorem branch_pollCounter (b : Bool) (o : Word) : (branch b o s).pollCounter = s.pollCounter := by unfold branch; split <;> rfl
@[simp] theorem branch_uptime (b : Bool) (o : Word) : (branch b o s).uptime = s.uptime := by unfold branch; split <;> rfl
@[simp] theorem branch_timerDeadline (b : Bool) (o : Word) : (branch b o s).timerDeadline = s.timerDeadline := by unfold branch; split <;> rfl
@[simp] theorem branch_env (b : Bool) (o : Word) : (branch b o s).env = s.env := by unfold branch; split <;> rfl
@[simp] theorem branch_draws (b : Bool) (o : Word) : (branch b o s).draws = s.draws := by unfold branch; split <;> rfl
@[simp] theorem branch_former (b : Bool) (o : Word) : (branch b o s).former = s.former := by unfold branch; split <;> rfl
@[simp] theorem branch_wroteMcycle (b : Bool) (o : Word) : (branch b o s).wroteMcycle = s.wroteMcycle := by unfold branch; split <;> rfl
@[simp] theorem branch_wroteMinstret (b : Bool) (o : Word) : (branch b o s).wroteMinstret = s.wroteMinstret := by unfold branch; split <;> rfl

/-! ### `flushIcache` -/

@[simp] theorem flushIcache_cfg : (flushIcache s).cfg = s.cfg := rfl
@[simp] theorem flushIcache_x : (flushIcache s).x = s.x := rfl
@[simp] theorem flushIcache_f : (flushIcache s).f = s.f := rfl
@[simp] theorem flushIcache_pc : (flushIcache s).pc = s.pc := rfl
@[simp] theorem flushIcache_npc : (flushIcache s).npc = s.npc := rfl
@[simp] theorem flushIcache_priv : (flushIcache s).priv = s.priv := rfl
@[simp] theorem flushIcache_runState : (flushIcache s).runState = s.runState := rfl
@[simp] theorem flushIcache_haltCode : (flushIcache s).haltCode = s.haltCode := rfl
@[simp] theorem flushIcache_haltPc : (flushIcache s).haltPc = s.haltPc := rfl
@[simp] theorem flushIcache_trapPending : (flushIcache s).trapPending = s.trapPending := rfl
@[simp] theorem flushIcache_mstatus : (flushIcache s).mstatus = s.mstatus := rfl
@[simp] theorem flushIcache_misa : (flushIcache s).misa = s.misa := rfl
@[simp] theorem flushIcache_medeleg : (flushIcache s).medeleg = s.medeleg := rfl
@[simp] theorem flushIcache_medelegh : (flushIcache s).medelegh = s.medelegh := rfl
@[simp] theorem flushIcache_mideleg : (flushIcache s).mideleg = s.mideleg := rfl
@[simp] theorem flushIcache_mie : (flushIcache s).mie = s.mie := rfl
@[simp] theorem flushIcache_mip : (flushIcache s).mip = s.mip := rfl
@[simp] theorem flushIcache_mtvec : (flushIcache s).mtvec = s.mtvec := rfl
@[simp] theorem flushIcache_mcounteren : (flushIcache s).mcounteren = s.mcounteren := rfl
@[simp] theorem flushIcache_mscratch : (flushIcache s).mscratch = s.mscratch := rfl
@[simp] theorem flushIcache_mepc : (flushIcache s).mepc = s.mepc := rfl
@[simp] theorem flushIcache_mcause : (flushIcache s).mcause = s.mcause := rfl
@[simp] theorem flushIcache_mtval : (flushIcache s).mtval = s.mtval := rfl
@[simp] theorem flushIcache_mcycle : (flushIcache s).mcycle = s.mcycle := rfl
@[simp] theorem flushIcache_minstret : (flushIcache s).minstret = s.minstret := rfl
@[simp] theorem flushIcache_pmpcfg : (flushIcache s).pmpcfg = s.pmpcfg := rfl
@[simp] theorem flushIcache_pmpaddr : (flushIcache s).pmpaddr = s.pmpaddr := rfl
@[simp] theorem flushIcache_stvec : (flushIcache s).stvec = s.stvec := rfl
@[simp] theorem flushIcache_scounteren : (flushIcache s).scounteren = s.scounteren := rfl
@[simp] theorem flushIcache_sscratch : (flushIcache s).sscratch = s.sscratch := rfl
@[simp] theorem flushIcache_sepc : (flushIcache s).sepc = s.sepc := rfl
@[simp] theorem flushIcache_scause : (flushIcache s).scause = s.scause := rfl
@[simp] theorem flushIcache_stval : (flushIcache s).stval = s.stval := rfl
@[simp] theorem flushIcache_satp : (flushIcache s).satp = s.satp := rfl
@[simp] theorem flushIcache_stimecmp : (flushIcache s).stimecmp = s.stimecmp := rfl
@[simp] theorem flushIcache_fcsr : (flushIcache s).fcsr = s.fcsr := rfl
@[simp] theorem flushIcache_mem : (flushIcache s).mem = s.mem := rfl
@[simp] theorem flushIcache_resv : (flushIcache s).resv = s.resv := rfl
@[simp] theorem flushIcache_pollCounter : (flushIcache s).pollCounter = s.pollCounter := rfl
@[simp] theorem flushIcache_uptime : (flushIcache s).uptime = s.uptime := rfl
@[simp] theorem flushIcache_timerDeadline : (flushIcache s).timerDeadline = s.timerDeadline := rfl
@[simp] theorem flushIcache_env : (flushIcache s).env = s.env := rfl
@[simp] theorem flushIcache_draws : (flushIcache s).draws = s.draws := rfl
@[simp] theorem flushIcache_former : (flushIcache s).former = s.former := rfl
@[simp] theorem flushIcache_wroteMcycle : (flushIcache s).wroteMcycle = s.wroteMcycle := rfl
@[simp] theorem flushIcache_wroteMinstret : (flushIcache s).wroteMinstret = s.wroteMinstret := rfl

/-! ### `haltHart` -/

@[simp] theorem haltHart_cfg : (haltHart s).cfg = s.cfg := rfl
@[simp] theorem haltHart_x : (haltHart s).x = s.x := rfl
@[simp] theorem haltHart_f : (haltHart s).f = s.f := rfl
@[simp] theorem haltHart_pc : (haltHart s).pc = s.pc := rfl
@[simp] theorem haltHart_npc : (haltHart s).npc = s.npc := rfl
@[simp] theorem haltHart_priv : (haltHart s).priv = s.priv := rfl
@[simp] theorem haltHart_trapPending : (haltHart s).trapPending = s.trapPending := rfl
@[simp] theorem haltHart_mstatus : (haltHart s).mstatus = s.mstatus := rfl
@[simp] theorem haltHart_misa : (haltHart s).misa = s.misa := rfl
@[simp] theorem haltHart_medeleg : (haltHart s).medeleg = s.medeleg := rfl
@[simp] theorem haltHart_medelegh : (haltHart s).medelegh = s.medelegh := rfl
@[simp] theorem haltHart_mideleg : (haltHart s).mideleg = s.mideleg := rfl
@[simp] theorem haltHart_mie : (haltHart s).mie = s.mie := rfl
@[simp] theorem haltHart_mip : (haltHart s).mip = s.mip := rfl
@[simp] theorem haltHart_mtvec : (haltHart s).mtvec = s.mtvec := rfl
@[simp] theorem haltHart_mcounteren : (haltHart s).mcounteren = s.mcounteren := rfl
@[simp] theorem haltHart_mscratch : (haltHart s).mscratch = s.mscratch := rfl
@[simp] theorem haltHart_mepc : (haltHart s).mepc = s.mepc := rfl
@[simp] theorem haltHart_mcause : (haltHart s).mcause = s.mcause := rfl
@[simp] theorem haltHart_mtval : (haltHart s).mtval = s.mtval := rfl
@[simp] theorem haltHart_mcycle : (haltHart s).mcycle = s.mcycle := rfl
@[simp] theorem haltHart_minstret : (haltHart s).minstret = s.minstret := rfl
@[simp] theorem haltHart_pmpcfg : (haltHart s).pmpcfg = s.pmpcfg := rfl
@[simp] theorem haltHart_pmpaddr : (haltHart s).pmpaddr = s.pmpaddr := rfl
@[simp] theorem haltHart_stvec : (haltHart s).stvec = s.stvec := rfl
@[simp] theorem haltHart_scounteren : (haltHart s).scounteren = s.scounteren := rfl
@[simp] theorem haltHart_sscratch : (haltHart s).sscratch = s.sscratch := rfl
@[simp] theorem haltHart_sepc : (haltHart s).sepc = s.sepc := rfl
@[simp] theorem haltHart_scause : (haltHart s).scause = s.scause := rfl
@[simp] theorem haltHart_stval : (haltHart s).stval = s.stval := rfl
@[simp] theorem haltHart_satp : (haltHart s).satp = s.satp := rfl
@[simp] theorem haltHart_stimecmp : (haltHart s).stimecmp = s.stimecmp := rfl
@[simp] theorem haltHart_fcsr : (haltHart s).fcsr = s.fcsr := rfl
@[simp] theorem haltHart_mem : (haltHart s).mem = s.mem := rfl
@[simp] theorem haltHart_resv : (haltHart s).resv = s.resv := rfl
@[simp] theorem haltHart_icache : (haltHart s).icache = s.icache := rfl
@[simp] theorem haltHart_pollCounter : (haltHart s).pollCounter = s.pollCounter := rfl
@[simp] theorem haltHart_uptime : (haltHart s).uptime = s.uptime := rfl
@[simp] theorem haltHart_timerDeadline : (haltHart s).timerDeadline = s.timerDeadline := rfl
@[simp] theorem haltHart_env : (haltHart s).env = s.env := rfl
@[simp] theorem haltHart_draws : (haltHart s).draws = s.draws := rfl
@[simp] theorem haltHart_former : (haltHart s).former = s.former := rfl
@[simp] theorem haltHart_wroteMcycle : (haltHart s).wroteMcycle = s.wroteMcycle := rfl
@[simp] theorem haltHart_wroteMinstret : (haltHart s).wroteMinstret = s.wroteMinstret := rfl

/-! ### `enterS` -/

@[simp] theorem enterS_cfg (c : Word) (k : Nat) : (enterS c k s).cfg = s.cfg := rfl
@[simp] theorem enterS_x (c : Word) (k : Nat) : (enterS c k s).x = s.x := rfl
@[simp] theorem enterS_f (c : Word) (k : Nat) : (enterS c k s).f = s.f := rfl
@[simp] theorem enterS_pc (c : Word) (k : Nat) : (enterS c k s).pc = s.pc := rfl
@[simp] theorem enterS_runState (c : Word) (k : Nat) : (enterS c k s).runState = s.runState := rfl
@[simp] theorem enterS_haltCode (c : Word) (k : Nat) : (enterS c k s).haltCode = s.haltCode := rfl
@[simp] theorem enterS_haltPc (c : Word) (k : Nat) : (enterS c k s).haltPc = s.haltPc := rfl
@[simp] theorem enterS_misa (c : Word) (k : Nat) : (enterS c k s).misa = s.misa := rfl
@[simp] theorem enterS_medeleg (c : Word) (k : Nat) : (enterS c k s).medeleg = s.medeleg := rfl
@[simp] theorem enterS_medelegh (c : Word) (k : Nat) : (enterS c k s).medelegh = s.medelegh := rfl
@[simp] theorem enterS_mideleg (c : Word) (k : Nat) : (enterS c k s).mideleg = s.mideleg := rfl
@[simp] theorem enterS_mie (c : Word) (k : Nat) : (enterS c k s).mie = s.mie := rfl
@[simp] theorem enterS_mip (c : Word) (k : Nat) : (enterS c k s).mip = s.mip := rfl
@[simp] theorem enterS_mtvec (c : Word) (k : Nat) : (enterS c k s).mtvec = s.mtvec := rfl
@[simp] theorem enterS_mcounteren (c : Word) (k : Nat) : (enterS c k s).mcounteren = s.mcounteren := rfl
@[simp] theorem enterS_mscratch (c : Word) (k : Nat) : (enterS c k s).mscratch = s.mscratch := rfl
@[simp] theorem enterS_mepc (c : Word) (k : Nat) : (enterS c k s).mepc = s.mepc := rfl
@[simp] theorem enterS_mcause (c : Word) (k : Nat) : (enterS c k s).mcause = s.mcause := rfl
@[simp] theorem enterS_mtval (c : Word) (k : Nat) : (enterS c k s).mtval = s.mtval := rfl
@[simp] theorem enterS_mcycle (c : Word) (k : Nat) : (enterS c k s).mcycle = s.mcycle := rfl
@[simp] theorem enterS_minstret (c : Word) (k : Nat) : (enterS c k s).minstret = s.minstret := rfl
@[simp] theorem enterS_pmpcfg (c : Word) (k : Nat) : (enterS c k s).pmpcfg = s.pmpcfg := rfl
@[simp] theorem enterS_pmpaddr (c : Word) (k : Nat) : (enterS c k s).pmpaddr = s.pmpaddr := rfl
@[simp] theorem enterS_stvec (c : Word) (k : Nat) : (enterS c k s).stvec = s.stvec := rfl
@[simp] theorem enterS_scounteren (c : Word) (k : Nat) : (enterS c k s).scounteren = s.scounteren := rfl
@[simp] theorem enterS_sscratch (c : Word) (k : Nat) : (enterS c k s).sscratch = s.sscratch := rfl
@[simp] theorem enterS_stval (c : Word) (k : Nat) : (enterS c k s).stval = s.stval := rfl
@[simp] theorem enterS_satp (c : Word) (k : Nat) : (enterS c k s).satp = s.satp := rfl
@[simp] theorem enterS_stimecmp (c : Word) (k : Nat) : (enterS c k s).stimecmp = s.stimecmp := rfl
@[simp] theorem enterS_fcsr (c : Word) (k : Nat) : (enterS c k s).fcsr = s.fcsr := rfl
@[simp] theorem enterS_mem (c : Word) (k : Nat) : (enterS c k s).mem = s.mem := rfl
@[simp] theorem enterS_resv (c : Word) (k : Nat) : (enterS c k s).resv = s.resv := rfl
@[simp] theorem enterS_icache (c : Word) (k : Nat) : (enterS c k s).icache = s.icache := rfl
@[simp] theorem enterS_pollCounter (c : Word) (k : Nat) : (enterS c k s).pollCounter = s.pollCounter := rfl
@[simp] theorem enterS_uptime (c : Word) (k : Nat) : (enterS c k s).uptime = s.uptime := rfl
@[simp] theorem enterS_timerDeadline (c : Word) (k : Nat) : (enterS c k s).timerDeadline = s.timerDeadline := rfl
@[simp] theorem enterS_env (c : Word) (k : Nat) : (enterS c k s).env = s.env := rfl
@[simp] theorem enterS_draws (c : Word) (k : Nat) : (enterS c k s).draws = s.draws := rfl
@[simp] theorem enterS_former (c : Word) (k : Nat) : (enterS c k s).former = s.former := rfl
@[simp] theorem enterS_wroteMcycle (c : Word) (k : Nat) : (enterS c k s).wroteMcycle = s.wroteMcycle := rfl
@[simp] theorem enterS_wroteMinstret (c : Word) (k : Nat) : (enterS c k s).wroteMinstret = s.wroteMinstret := rfl

/-! ### `enterM` -/

@[simp] theorem enterM_cfg (c : Word) (k : Nat) : (enterM c k s).cfg = s.cfg := rfl
@[simp] theorem enterM_x (c : Word) (k : Nat) : (enterM c k s).x = s.x := rfl
@[simp] theorem enterM_f (c : Word) (k : Nat) : (enterM c k s).f = s.f := rfl
@[simp] theorem enterM_pc (c : Word) (k : Nat) : (enterM c k s).pc = s.pc := rfl
@[simp] theorem enterM_runState (c : Word) (k : Nat) : (enterM c k s).runState = s.runState := rfl
@[simp] theorem enterM_haltCode (c : Word) (k : Nat) : (enterM c k s).haltCode = s.haltCode := rfl
@[simp] theorem enterM_haltPc (c : Word) (k : Nat) : (enterM c k s).haltPc = s.haltPc := rfl
@[simp] theorem enterM_misa (c : Word) (k : Nat) : (enterM c k s).misa = s.misa := rfl
@[simp] theorem enterM_medeleg (c : Word) (k : Nat) : (enterM c k s).medeleg = s.medeleg := rfl
@[simp] theorem enterM_medelegh (c : Word) (k : Nat) : (enterM c k s).medelegh = s.medelegh := rfl
@[simp] theorem enterM_mideleg (c : Word) (k : Nat) : (enterM c k s).mideleg = s.mideleg := rfl
@[simp] theorem enterM_mie (c : Word) (k : Nat) : (enterM c k s).mie = s.mie := rfl
@[simp] theorem enterM_mip (c : Word) (k : Nat) : (enterM c k s).mip = s.mip := rfl
@[simp] theorem enterM_mtvec (c : Word) (k : Nat) : (enterM c k s).mtvec = s.mtvec := rfl
@[simp] theorem enterM_mcounteren (c : Word) (k : Nat) : (enterM c k s).mcounteren = s.mcounteren := rfl
@[simp] theorem enterM_mscratch (c : Word) (k : Nat) : (enterM c k s).mscratch = s.mscratch := rfl
@[simp] theorem enterM_mtval (c : Word) (k : Nat) : (enterM c k s).mtval = s.mtval := rfl
@[simp] theorem enterM_mcycle (c : Word) (k : Nat) : (enterM c k s).mcycle = s.mcycle := rfl
@[simp] theorem enterM_minstret (c : Word) (k : Nat) : (enterM c k s).minstret = s.minstret := rfl
@[simp] theorem enterM_pmpcfg (c : Word) (k : Nat) : (enterM c k s).pmpcfg = s.pmpcfg := rfl
@[simp] theorem enterM_pmpaddr (c : Word) (k : Nat) : (enterM c k s).pmpaddr = s.pmpaddr := rfl
@[simp] theorem enterM_stvec (c : Word) (k : Nat) : (enterM c k s).stvec = s.stvec := rfl
@[simp] theorem enterM_scounteren (c : Word) (k : Nat) : (enterM c k s).scounteren = s.scounteren := rfl
@[simp] theorem enterM_sscratch (c : Word) (k : Nat) : (enterM c k s).sscratch = s.sscratch := rfl
@[simp] theorem enterM_sepc (c : Word) (k : Nat) : (enterM c k s).sepc = s.sepc := rfl
@[simp] theorem enterM_scause (c : Word) (k : Nat) : (enterM c k s).scause = s.scause := rfl
@[simp] theorem enterM_stval (c : Word) (k : Nat) : (enterM c k s).stval = s.stval := rfl
@[simp] theorem enterM_satp (c : Word) (k : Nat) : (enterM c k s).satp = s.satp := rfl
@[simp] theorem enterM_stimecmp (c : Word) (k : Nat) : (enterM c k s).stimecmp = s.stimecmp := rfl
@[simp] theorem enterM_fcsr (c : Word) (k : Nat) : (enterM c k s).fcsr = s.fcsr := rfl
@[simp] theorem enterM_mem (c : Word) (k : Nat) : (enterM c k s).mem = s.mem := rfl
@[simp] theorem enterM_resv (c : Word) (k : Nat) : (enterM c k s).resv = s.resv := rfl
@[simp] theorem enterM_icache (c : Word) (k : Nat) : (enterM c k s).icache = s.icache := rfl
@[simp] theorem enterM_pollCounter (c : Word) (k : Nat) : (enterM c k s).pollCounter = s.pollCounter := rfl
@[simp] theorem enterM_uptime (c : Word) (k : Nat) : (enterM c k s).uptime = s.uptime := rfl
@[simp] theorem enterM_timerDeadline (c : Word) (k : Nat) : (enterM c k s).timerDeadline = s.timerDeadline := rfl
@[simp] theorem enterM_env (c : Word) (k : Nat) : (enterM c k s).env = s.env := rfl
@[simp] theorem enterM_draws (c : Word) (k : Nat) : (enterM c k s).draws = s.draws := rfl
@[simp] theorem enterM_former (c : Word) (k : Nat) : (enterM c k s).former = s.former := rfl
@[simp] theorem enterM_wroteMcycle (c : Word) (k : Nat) : (enterM c k s).wroteMcycle = s.wroteMcycle := rfl
@[simp] theorem enterM_wroteMinstret (c : Word) (k : Nat) : (enterM c k s).wroteMinstret = s.wroteMinstret := rfl

/-! ### `deliver` -/

@[simp] theorem deliver_cfg (e : Exn) : (deliver e s).cfg = s.cfg := by unfold deliver; dsimp only; split <;> rfl
@[simp] theorem deliver_x (e : Exn) : (deliver e s).x = s.x := by unfold deliver; dsimp only; split <;> rfl
@[simp] theorem deliver_f (e : Exn) : (deliver e s).f = s.f := by unfold deliver; dsimp only; split <;> rfl
@[simp] theorem deliver_pc (e : Exn) : (deliver e s).pc = s.pc := by unfold deliver; dsimp only; split <;> rfl
@[simp] theorem deliver_runState (e : Exn) : (deliver e s).runState = s.runState := by unfold deliver; dsimp only; split <;> rfl
@[simp] theorem deliver_haltCode (e : Exn) : (deliver e s).haltCode = s.haltCode := by unfold deliver; dsimp only; split <;> rfl
@[simp] theorem deliver_haltPc (e : Exn) : (deliver e s).haltPc = s.haltPc := by unfold deliver; dsimp only; split <;> rfl
@[simp] theorem deliver_misa (e : Exn) : (deliver e s).misa = s.misa := by unfold deliver; dsimp only; split <;> rfl
@[simp] theorem deliver_medeleg (e : Exn) : (deliver e s).medeleg = s.medeleg := by unfold deliver; dsimp only; split <;> rfl
@[simp] theorem deliver_medelegh (e : Exn) : (deliver e s).medelegh = s.medelegh := by unfold deliver; dsimp only; split <;> rfl
@[simp] theorem deliver_mideleg (e : Exn) : (deliver e s).mideleg = s.mideleg := by unfold deliver; dsimp only; split <;> rfl
@[simp] theorem deliver_mie (e : Exn) : (deliver e s).mie = s.mie := by unfold deliver; dsimp only; split <;> rfl
@[simp] theorem deliver_mip (e : Exn) : (deliver e s).mip = s.mip := by unfold deliver; dsimp only; split <;> rfl
@[simp] theorem deliver_mtvec (e : Exn) : (deliver e s).mtvec = s.mtvec := by unfold deliver; dsimp only; split <;> rfl
@[simp] theorem deliver_mcounteren (e : Exn) : (deliver e s).mcounteren = s.mcounteren := by unfold deliver; dsimp only; split <;> rfl
@[simp] theorem deliver_mscratch (e : Exn) : (deliver e s).mscratch = s.mscratch := by unfold deliver; dsimp only; split <;> rfl
@[simp] theorem deliver_mcycle (e : Exn) : (deliver e s).mcycle = s.mcycle := by unfold deliver; dsimp only; split <;> rfl
@[simp] theorem deliver_minstret (e : Exn) : (deliver e s).minstret = s.minstret := by unfold deliver; dsimp only; split <;> rfl
@[simp] theorem deliver_pmpcfg (e : Exn) : (deliver e s).pmpcfg = s.pmpcfg := by unfold deliver; dsimp only; split <;> rfl
@[simp] theorem deliver_pmpaddr (e : Exn) : (deliver e s).pmpaddr = s.pmpaddr := by unfold deliver; dsimp only; split <;> rfl
@[simp] theorem deliver_stvec (e : Exn) : (deliver e s).stvec = s.stvec := by unfold deliver; dsimp only; split <;> rfl
@[simp] theorem deliver_scounteren (e : Exn) : (deliver e s).scounteren = s.scounteren := by unfold deliver; dsimp only; split <;> rfl
@[simp] theorem deliver_sscratch (e : Exn) : (deliver e s).sscratch = s.sscratch := by unfold deliver; dsimp only; split <;> rfl
@[simp] theorem deliver_satp (e : Exn) : (deliver e s).satp = s.satp := by unfold deliver; dsimp only; split <;> rfl
@[simp] theorem deliver_stimecmp (e : Exn) : (deliver e s).stimecmp = s.stimecmp := by unfold deliver; dsimp only; split <;> rfl
@[simp] theorem deliver_fcsr (e : Exn) : (deliver e s).fcsr = s.fcsr := by unfold deliver; dsimp only; split <;> rfl
@[simp] theorem deliver_mem (e : Exn) : (deliver e s).mem = s.mem := by unfold deliver; dsimp only; split <;> rfl
@[simp] theorem deliver_resv (e : Exn) : (deliver e s).resv = s.resv := by unfold deliver; dsimp only; split <;> rfl
@[simp] theorem deliver_icache (e : Exn) : (deliver e s).icache = s.icache := by unfold deliver; dsimp only; split <;> rfl
@[simp] theorem deliver_pollCounter (e : Exn) : (deliver e s).pollCounter = s.pollCounter := by unfold deliver; dsimp only; split <;> rfl
@[simp] theorem deliver_uptime (e : Exn) : (deliver e s).uptime = s.uptime := by unfold deliver; dsimp only; split <;> rfl
@[simp] theorem deliver_timerDeadline (e : Exn) : (deliver e s).timerDeadline = s.timerDeadline := by unfold deliver; dsimp only; split <;> rfl
@[simp] theorem deliver_env (e : Exn) : (deliver e s).env = s.env := by unfold deliver; dsimp only; split <;> rfl
@[simp] theorem deliver_draws (e : Exn) : (deliver e s).draws = s.draws := by unfold deliver; dsimp only; split <;> rfl
@[simp] theorem deliver_former (e : Exn) : (deliver e s).former = s.former := by unfold deliver; dsimp only; split <;> rfl
@[simp] theorem deliver_wroteMcycle (e : Exn) : (deliver e s).wroteMcycle = s.wroteMcycle := by unfold deliver; dsimp only; split <;> rfl
@[simp] theorem deliver_wroteMinstret (e : Exn) : (deliver e s).wroteMinstret = s.wroteMinstret := by unfold deliver; dsimp only; split <;> rfl

/-! ### `illegal` -/

@[simp] theorem illegal_cfg (w : Word) : (illegal w s).cfg = s.cfg := deliver_cfg s _
@[simp] theorem illegal_x (w : Word) : (illegal w s).x = s.x := deliver_x s _
@[simp] theorem illegal_f (w : Word) : (illegal w s).f = s.f := deliver_f s _
@[simp] theorem illegal_pc (w : Word) : (illegal w s).pc = s.pc := deliver_pc s _
@[simp] theorem illegal_runState (w : Word) : (illegal w s).runState = s.runState := deliver_runState s _
@[simp] theorem illegal_haltCode (w : Word) : (illegal w s).haltCode = s.haltCode := deliver_haltCode s _
@[simp] theorem illegal_haltPc (w : Word) : (illegal w s).haltPc = s.haltPc := deliver_haltPc s _
@[simp] theorem illegal_misa (w : Word) : (illegal w s).misa = s.misa := deliver_misa s _
@[simp] theorem illegal_medeleg (w : Word) : (illegal w s).medeleg = s.medeleg := deliver_medeleg s _
@[simp] theorem illegal_medelegh (w : Word) : (illegal w s).medelegh = s.medelegh := deliver_medelegh s _
@[simp] theorem illegal_mideleg (w : Word) : (illegal w s).mideleg = s.mideleg := deliver_mideleg s _
@[simp] theorem illegal_mie (w : Word) : (illegal w s).mie = s.mie := deliver_mie s _
@[simp] theorem illegal_mip (w : Word) : (illegal w s).mip = s.mip := deliver_mip s _
@[simp] theorem illegal_mtvec (w : Word) : (illegal w s).mtvec = s.mtvec := deliver_mtvec s _
@[simp] theorem illegal_mcounteren (w : Word) : (illegal w s).mcounteren = s.mcounteren := deliver_mcounteren s _
@[simp] theorem illegal_mscratch (w : Word) : (illegal w s).mscratch = s.mscratch := deliver_mscratch s _
@[simp] theorem illegal_mcycle (w : Word) : (illegal w s).mcycle = s.mcycle := deliver_mcycle s _
@[simp] theorem illegal_minstret (w : Word) : (illegal w s).minstret = s.minstret := deliver_minstret s _
@[simp] theorem illegal_pmpcfg (w : Word) : (illegal w s).pmpcfg = s.pmpcfg := deliver_pmpcfg s _
@[simp] theorem illegal_pmpaddr (w : Word) : (illegal w s).pmpaddr = s.pmpaddr := deliver_pmpaddr s _
@[simp] theorem illegal_stvec (w : Word) : (illegal w s).stvec = s.stvec := deliver_stvec s _
@[simp] theorem illegal_scounteren (w : Word) : (illegal w s).scounteren = s.scounteren := deliver_scounteren s _
@[simp] theorem illegal_sscratch (w : Word) : (illegal w s).sscratch = s.sscratch := deliver_sscratch s _
@[simp] theorem illegal_satp (w : Word) : (illegal w s).satp = s.satp := deliver_satp s _
@[simp] theorem illegal_stimecmp (w : Word) : (illegal w s).stimecmp = s.stimecmp := deliver_stimecmp s _
@[simp] theorem illegal_fcsr (w : Word) : (illegal w s).fcsr = s.fcsr := deliver_fcsr s _
@[simp] theorem illegal_mem (w : Word) : (illegal w s).mem = s.mem := deliver_mem s _
@[simp] theorem illegal_resv (w : Word) : (illegal w s).resv = s.resv := deliver_resv s _
@[simp] theorem illegal_icache (w : Word) : (illegal w s).icache = s.icache := deliver_icache s _
@[simp] theorem illegal_pollCounter (w : Word) : (illegal w s).pollCounter = s.pollCounter := deliver_pollCounter s _
@[simp] theorem illegal_uptime (w : Word) : (illegal w s).uptime = s.uptime := deliver_uptime s _
@[simp] theorem illegal_timerDeadline (w : Word) : (illegal w s).timerDeadline = s.timerDeadline := deliver_timerDeadline s _
@[simp] theorem illegal_env (w : Word) : (illegal w s).env = s.env := deliver_env s _
@[simp] theorem illegal_draws (w : Word) : (illegal w s).draws = s.draws := deliver_draws s _
@[simp] theorem illegal_former (w : Word) : (illegal w s).former = s.former := deliver_former s _
@[simp] theorem illegal_wroteMcycle (w : Word) : (illegal w s).wroteMcycle = s.wroteMcycle := deliver_wroteMcycle s _
@[simp] theorem illegal_wroteMinstret (w : Word) : (illegal w s).wroteMinstret = s.wroteMinstret := deliver_wroteMinstret s _

/-! ### `returnM` -/

@[simp] theorem returnM_cfg : (returnM s).cfg = s.cfg := rfl
@[simp] theorem returnM_x : (returnM s).x = s.x := rfl
@[simp] theorem returnM_f : (returnM s).f = s.f := rfl
@[simp] theorem returnM_pc : (returnM s).pc = s.pc := rfl
@[simp] theorem returnM_runState : (returnM s).runState = s.runState := rfl
@[simp] theorem returnM_haltCode : (returnM s).haltCode = s.haltCode := rfl
@[simp] theorem returnM_haltPc : (returnM s).haltPc = s.haltPc := rfl
@[simp] theorem returnM_trapPending : (returnM s).trapPending = s.trapPending := rfl
@[simp] theorem returnM_misa : (returnM s).misa = s.misa := rfl
@[simp] theorem returnM_medeleg : (returnM s).medeleg = s.medeleg := rfl
@[simp] theorem returnM_medelegh : (returnM s).medelegh = s.medelegh := rfl
@[simp] theorem returnM_mideleg : (returnM s).mideleg = s.mideleg := rfl
@[simp] theorem returnM_mie : (returnM s).mie = s.mie := rfl
@[simp] theorem returnM_mip : (returnM s).mip = s.mip := rfl
@[simp] theorem returnM_mtvec : (returnM s).mtvec = s.mtvec := rfl
@[simp] theorem returnM_mcounteren : (returnM s).mcounteren = s.mcounteren := rfl
@[simp] theorem returnM_mscratch : (returnM s).mscratch = s.mscratch := rfl
@[simp] theorem returnM_mepc : (returnM s).mepc = s.mepc := rfl
@[simp] theorem returnM_mcause : (returnM s).mcause = s.mcause := rfl
@[simp] theorem returnM_mtval : (returnM s).mtval = s.mtval := rfl
@[simp] theorem returnM_mcycle : (returnM s).mcycle = s.mcycle := rfl
@[simp] theorem returnM_minstret : (returnM s).minstret = s.minstret := rfl
@[simp] theorem returnM_pmpcfg : (returnM s).pmpcfg = s.pmpcfg := rfl
@[simp] theorem returnM_pmpaddr : (returnM s).pmpaddr = s.pmpaddr := rfl
@[simp] theorem returnM_stvec : (returnM s).stvec = s.stvec := rfl
@[simp] theorem returnM_scounteren : (returnM s).scounteren = s.scounteren := rfl
@[simp] theorem returnM_sscratch : (returnM s).sscratch = s.sscratch := rfl
@[simp] theorem returnM_sepc : (returnM s).sepc = s.sepc := rfl
@[simp] theorem returnM_scause : (returnM s).scause = s.scause := rfl
@[simp] theorem returnM_stval : (returnM s).stval = s.stval := rfl
@[simp] theorem returnM_satp : (returnM s).satp = s.satp := rfl
@[simp] theorem returnM_stimecmp : (returnM s).stimecmp = s.stimecmp := rfl
@[simp] theorem returnM_fcsr : (returnM s).fcsr = s.fcsr := rfl
@[simp] theorem returnM_mem : (returnM s).mem = s.mem := rfl
@[simp] theorem returnM_resv : (returnM s).resv = s.resv := rfl
@[simp] theorem returnM_icache : (returnM s).icache = s.icache := rfl
@[simp] theorem returnM_pollCounter : (returnM s).pollCounter = s.pollCounter := rfl
@[simp] theorem returnM_uptime : (returnM s).uptime = s.uptime := rfl
@[simp] theorem returnM_timerDeadline : (returnM s).timerDeadline = s.timerDeadline := rfl
@[simp] theorem returnM_env : (returnM s).env = s.env := rfl
@[simp] theorem returnM_draws : (returnM s).draws = s.draws := rfl
@[simp] theorem returnM_former : (returnM s).former = s.former := rfl
@[simp] theorem returnM_wroteMcycle : (returnM s).wroteMcycle = s.wroteMcycle := rfl
@[simp] theorem returnM_wroteMinstret : (returnM s).wroteMinstret = s.wroteMinstret := rfl

/-! ### `returnS` -/

@[simp] theorem returnS_cfg : (returnS s).cfg = s.cfg := rfl
@[simp] theorem returnS_x : (returnS s).x = s.x := rfl
@[simp] theorem returnS_f : (returnS s).f = s.f := rfl
@[simp] theorem returnS_pc : (returnS s).pc = s.pc := rfl
@[simp] theorem returnS_runState : (returnS s).runState = s.runState := rfl
@[simp] theorem returnS_haltCode : (returnS s).haltCode = s.haltCode := rfl
@[simp] theorem returnS_haltPc : (returnS s).haltPc = s.haltPc := rfl
@[simp] theorem returnS_trapPending : (returnS s).trapPending = s.trapPending := rfl
@[simp] theorem returnS_misa : (returnS s).misa = s.misa := rfl
@[simp] theorem returnS_medeleg : (returnS s).medeleg = s.medeleg := rfl
@[simp] theorem returnS_medelegh : (returnS s).medelegh = s.medelegh := rfl
@[simp] theorem returnS_mideleg : (returnS s).mideleg = s.mideleg := rfl
@[simp] theorem returnS_mie : (returnS s).mie = s.mie := rfl
@[simp] theorem returnS_mip : (returnS s).mip = s.mip := rfl
@[simp] theorem returnS_mtvec : (returnS s).mtvec = s.mtvec := rfl
@[simp] theorem returnS_mcounteren : (returnS s).mcounteren = s.mcounteren := rfl
@[simp] theorem returnS_mscratch : (returnS s).mscratch = s.mscratch := rfl
@[simp] theorem returnS_mepc : (returnS s).mepc = s.mepc := rfl
@[simp] theorem returnS_mcause : (returnS s).mcause = s.mcause := rfl
@[simp] theorem returnS_mtval : (returnS s).mtval = s.mtval := rfl
@[simp] theorem returnS_mcycle : (returnS s).mcycle = s.mcycle := rfl
@[simp] theorem returnS_minstret : (returnS s).minstret = s.minstret := rfl
@[simp] theorem returnS_pmpcfg : (returnS s).pmpcfg = s.pmpcfg := rfl
@[simp] theorem returnS_pmpaddr : (returnS s).pmpaddr = s.pmpaddr := rfl
@[simp] theorem returnS_stvec : (returnS s).stvec = s.stvec := rfl
@[simp] theorem returnS_scounteren : (returnS s).scounteren = s.scounteren := rfl
@[simp] theorem returnS_sscratch : (returnS s).sscratch = s.sscratch := rfl
@[simp] theorem returnS_sepc : (returnS s).sepc = s.sepc := rfl
@[simp] theorem returnS_scause : (returnS s).scause = s.scause := rfl
@[simp] theorem returnS_stval : (returnS s).stval = s.stval := rfl
@[simp] theorem returnS_satp : (returnS s).satp = s.satp := rfl
@[simp] theorem returnS_stimecmp : (returnS s).stimecmp = s.stimecmp := rfl
@[simp] theorem returnS_fcsr : (returnS s).fcsr = s.fcsr := rfl
@[simp] theorem returnS_mem : (returnS s).mem = s.mem := rfl
@[simp] theorem returnS_resv : (returnS s).resv = s.resv := rfl
@[simp] theorem returnS_icache : (returnS s).icache = s.icache := rfl
@[simp] theorem returnS_pollCounter : (returnS s).pollCounter = s.pollCounter := rfl
@[simp] theorem returnS_uptime : (returnS s).uptime = s.uptime := rfl
@[simp] theorem returnS_timerDeadline : (returnS s).timerDeadline = s.timerDeadline := rfl
@[simp] theorem returnS_env : (returnS s).env = s.env := rfl
@[simp] theorem returnS_draws : (returnS s).draws = s.draws := rfl
@[simp] theorem returnS_former : (returnS s).former = s.former := rfl
@[simp] theorem returnS_wroteMcycle : (returnS s).wroteMcycle = s.wroteMcycle := rfl
@[simp] theorem returnS_wroteMinstret : (returnS s).wroteMinstret = s.wroteMinstret := rfl

/-! ### What the changed fields become -/

@[simp] theorem dirtyFS_mstatus : (dirtyFS s).mstatus = withSD s.cfg.xlen (setField s.mstatus 13 2 3) := rfl
@[simp] theorem jumpRel_npc (o : Word) : (jumpRel o s).npc = norm s.cfg.xlen (s.pc + o) := rfl
@[simp] theorem jumpTo_npc (a : Word) : (jumpTo a s).npc = norm s.cfg.xlen (a &&& ~~~1#64) := rfl
@[simp] theorem flushIcache_icache : (flushIcache s).icache = [] := rfl
@[simp] theorem haltHart_runState : (haltHart s).runState = .halt := rfl
@[simp] theorem haltHart_haltPc : (haltHart s).haltPc = s.pc := rfl
@[simp] theorem haltHart_haltCode : (haltHart s).haltCode = readX 10 s := rfl
@[simp] theorem writeFDirty_mstatus (r : FReg) (v : BitVec 64) :
    (writeFDirty r v s).mstatus = withSD s.cfg.xlen (setField s.mstatus 13 2 3) := rfl
@[simp] theorem deliver_trapPending (e : Exn) : (deliver e s).trapPending = true := by
  unfold deliver; dsimp only; split <;> rfl
@[simp] theorem illegal_trapPending (w : Word) : (illegal w s).trapPending = true := deliver_trapPending s _

end Sys2Proof.Machine
end

