-- ==== Sys2Proof/Laws/Regs.lean ====
section
/-!
SUPPORT. Laws/Regs.lean: XLEN-wide values and the register files: what is read back, and what a write leaves alone.
-/

namespace Sys2Proof.Machine

/-! ### XLEN-wide values -/

theorem Xlen_bits_cases (xl : Xlen) : xl.bits = 32 ∨ xl.bits = 64 := by cases xl <;> simp [Xlen.bits]

theorem Xlen_bits_pos (xl : Xlen) : 0 < xl.bits := by cases xl <;> simp [Xlen.bits]

theorem Xlen_bits_le (xl : Xlen) : xl.bits ≤ 64 := by cases xl <;> simp [Xlen.bits]

theorem norm_toNat (xl : Xlen) (v : Word) : (norm xl v).toNat = v.toNat % 2 ^ xl.bits := by
  cases xl
  · simp [norm, Xlen.bits]
    omega
  · simp [norm, Xlen.bits]; omega

theorem norm_getLsbD (xl : Xlen) (v : Word) (i : Nat) :
    (norm xl v).getLsbD i = (decide (i < xl.bits) && v.getLsbD i) := by
  cases xl
  · by_cases h : i < 32
    · simp [norm, Xlen.bits, h]; omega
    · simp [norm, Xlen.bits, h]
  · by_cases h : i < 64
    · simp [norm, Xlen.bits, h]
    · simp [norm, Xlen.bits, h]; exact BitVec.getLsbD_of_ge _ _ (by omega)

@[simp] theorem norm_norm (xl : Xlen) (v : Word) : norm xl (norm xl v) = norm xl v := by
  apply BitVec.eq_of_toNat_eq
  simp [norm_toNat]

@[simp] theorem norm_rv64 (v : Word) : norm .rv64 v = v := rfl

@[simp] theorem norm_zero (xl : Xlen) : norm xl 0 = 0 := by cases xl <;> rfl

/-- A value of 32 bits or fewer fits every build. -/
theorem norm_of_lt (xl : Xlen) {v : Word} (h : v.toNat < 2 ^ 32) : norm xl v = v := by
  apply BitVec.eq_of_toNat_eq
  rw [norm_toNat]
  apply Nat.mod_eq_of_lt
  cases xl <;> simp [Xlen.bits] <;> omega

/-! ### General registers -/

@[simp] theorem readX_zero (s : State) : readX 0 s = 0 := rfl

@[simp] theorem readX_zero' (s : State) : readX 0#5 s = 0 := rfl

@[simp] theorem writeX_zero (v : Word) (s : State) : writeX 0 v s = s := rfl

/-- What the written register reads as. -/
theorem readX_writeX_same (r : Reg) (v : Word) (s : State) :
    readX r (writeX r v s) = if r = 0 then 0 else norm s.cfg.xlen v := by
  by_cases h : r = 0
  · subst h; rfl
  · have h' : ¬ r = 0#5 := h
    simp [readX, writeX, h']

/-- Another register reads as before. -/
theorem readX_writeX_other {r q : Reg} (h : q ≠ r) (v : Word) (s : State) : readX q (writeX r v s) = readX q s := by
  by_cases hr : r = 0#5
  · simp [writeX, hr]
  · have : ¬ r.toNat = q.toNat := fun e => h (BitVec.eq_of_toNat_eq e.symm)
    simp [readX, writeX, hr, this]

/-- A register's reading depends on the build and the file alone. -/
theorem readX_congr {s t : State} (hx : t.x = s.x) (hc : t.cfg = s.cfg) (r : Reg) : readX r t = readX r s := by
  simp only [readX, hc]; split
  · rfl
  · congr 1; simp [hx]

/-- A read value has no bit above XLEN. -/
@[simp] theorem norm_readX (r : Reg) (s : State) : norm s.cfg.xlen (readX r s) = readX r s := by
  unfold readX; split
  · exact norm_zero _
  · simp

theorem readX_toNat_lt (r : Reg) (s : State) : (readX r s).toNat < 2 ^ s.cfg.xlen.bits := by
  rw [← norm_readX, norm_toNat]; exact Nat.mod_lt _ (by positivity)

/-! ### Floating-point registers -/

@[simp] theorem readF_writeF_same (r : FReg) (v : BitVec 64) (s : State) : readF r (writeF r v s) = v := by
  simp [readF, writeF]

theorem readF_writeF_other {r q : FReg} (h : q ≠ r) (v : BitVec 64) (s : State) :
    readF q (writeF r v s) = readF q s := by
  have : ¬ r.toNat = q.toNat := fun e => h (BitVec.eq_of_toNat_eq e.symm)
  simp [readF, writeF, this]

theorem readF_congr {s t : State} (h : t.f = s.f) (r : FReg) : readF r t = readF r s := by simp [readF, h]

end Sys2Proof.Machine
end

