-- ==== Sys2Proof/Laws/Results.lean ====
section
/-!
SUPPORT. Laws/Results.lean: the numbers that XLEN-wide words stand for, and what an instruction that writes one register
gives in the words of Safety.lean.
-/

namespace Sys2Proof.Machine

/-- A word and an integer agree modulo 2^XLEN. -/
def ReadsAs (xl : Xlen) (w : Word) (v : Int) : Prop := (w.toNat : Int) % 2 ^ xl.bits = v % 2 ^ xl.bits

theorem pow_bits_dvd (xl : Xlen) : (2 : Int) ^ xl.bits ∣ 2 ^ 64 := by cases xl <;> decide

theorem pow_32_dvd (xl : Xlen) : (2 : Int) ^ 32 ∣ 2 ^ xl.bits := by cases xl <;> decide

theorem ReadsAs.nat (xl : Xlen) (w : Word) : ReadsAs xl w w.toNat := rfl

theorem ReadsAs.ofInt (xl : Xlen) (v : Int) : ReadsAs xl (BitVec.ofInt 64 v) v := by
  unfold ReadsAs
  rw [BitVec.toNat_ofInt]
  have : ((v % ((2 ^ 64 : Nat) : Int)).toNat : Int) = v % 2 ^ 64 := by
    rw [Int.toNat_of_nonneg (Int.emod_nonneg _ (by decide))]; rfl
  rw [this]
  exact Int.emod_emod_of_dvd _ (pow_bits_dvd xl)

theorem ReadsAs.of_eq {xl : Xlen} {w : Word} {v : Int} (h : w = BitVec.ofInt 64 v) : ReadsAs xl w v := by
  subst h; exact ReadsAs.ofInt _ _

/-- A sign-extended field reads as its signed value. -/
theorem ReadsAs.signExtend (xl : Xlen) {n : Nat} (b : BitVec n) : ReadsAs xl (b.signExtend 64) b.toInt :=
  ReadsAs.of_eq rfl

theorem ReadsAs.add {xl : Xlen} {a b : Word} {va vb : Int} (ha : ReadsAs xl a va) (hb : ReadsAs xl b vb) :
    ReadsAs xl (a + b) (va + vb) := by
  unfold ReadsAs at *
  rw [BitVec.toNat_add]
  push_cast
  rw [Int.emod_emod_of_dvd _ (by exact_mod_cast pow_bits_dvd xl), Int.add_emod, ha, hb, ← Int.add_emod]

theorem ReadsAs.sub {xl : Xlen} {a b : Word} {va vb : Int} (ha : ReadsAs xl a va) (hb : ReadsAs xl b vb) :
    ReadsAs xl (a - b) (va - vb) := by
  have h : a - b = BitVec.ofInt 64 ((a.toNat : Int) - b.toNat) := by
    apply BitVec.eq_of_toNat_eq
    rw [BitVec.toNat_sub, BitVec.toNat_ofInt]
    omega
  have h' : ReadsAs xl (a - b) ((a.toNat : Int) - b.toNat) := ReadsAs.of_eq h
  unfold ReadsAs at *
  rw [h', Int.sub_emod, ha, hb, ← Int.sub_emod]

theorem ReadsAs.mul {xl : Xlen} {a b : Word} {va vb : Int} (ha : ReadsAs xl a va) (hb : ReadsAs xl b vb) :
    ReadsAs xl (a * b) (va * vb) := by
  unfold ReadsAs at *
  rw [BitVec.toNat_mul]
  push_cast
  rw [Int.emod_emod_of_dvd _ (by exact_mod_cast pow_bits_dvd xl), Int.mul_emod, ha, hb, ← Int.mul_emod]

theorem ReadsAs.shl {xl : Xlen} {a : Word} {va : Int} (ha : ReadsAs xl a va) (k : Nat) :
    ReadsAs xl (a <<< k) (va * 2 ^ k) := by
  unfold ReadsAs at *
  rw [BitVec.toNat_shiftLeft, Nat.shiftLeft_eq]
  push_cast
  rw [Int.emod_emod_of_dvd _ (by exact_mod_cast pow_bits_dvd xl), Int.mul_emod, ha, ← Int.mul_emod]

theorem ReadsAs.norm {xl : Xlen} {a : Word} {v : Int} (h : ReadsAs xl a v) : ReadsAs xl (norm xl a) v := by
  unfold ReadsAs at *
  rw [norm_toNat]
  push_cast
  rw [Int.emod_emod_of_dvd _ (Int.dvd_refl _), h]

theorem ReadsAs.bool (xl : Xlen) (b : Bool) (p : Prop) [Decidable p] (h : b = true ↔ p) :
    ReadsAs xl (boolWord b) (ofProp p) := by
  unfold ReadsAs boolWord ofProp
  cases b <;> simp_all

/-- The normal form of a word is the number it stands for. -/
theorem ReadsAs.toNat_norm {xl : Xlen} {w : Word} {v : Int} (h : ReadsAs xl w v) :
    ((Machine.norm xl w).toNat : Int) = v % 2 ^ xl.bits := by
  rw [norm_toNat]; push_cast; exact h

/-! ### Low words -/

theorem signedOf_toInt {n : Nat} (b : BitVec n) : signedOf n b.toNat = b.toInt := by
  unfold signedOf BitVec.toInt
  push_cast
  rfl

theorem sext32_eq {w : Word} {v : Int} (h : (w.toNat : Int) % 2 ^ 32 = v % 2 ^ 32) :
    sext32 w = BitVec.ofInt 64 (wrap32 v) := by
  unfold sext32 wrap32
  rw [← h]
  have : ((w.toNat : Int) % 2 ^ 32).toNat = (w.setWidth 32).toNat := by
    rw [BitVec.toNat_setWidth]; omega
  rw [this, signedOf_toInt]
  rfl

theorem ReadsAs.sext32 {xl : Xlen} {w : Word} {v : Int} (h : (w.toNat : Int) % 2 ^ 32 = v % 2 ^ 32) :
    ReadsAs xl (sext32 w) (wrap32 v) := ReadsAs.of_eq (sext32_eq h)

/-- Agreement modulo 2^XLEN gives agreement of the low words. -/
theorem ReadsAs.low {xl : Xlen} {w : Word} {v : Int} (h : ReadsAs xl w v) : (w.toNat : Int) % 2 ^ 32 = v % 2 ^ 32 := by
  have := congrArg (· % ((2 : Int) ^ 32)) h
  simpa only [Int.emod_emod_of_dvd _ (pow_32_dvd xl)] using this

/-! ### Registers as numbers -/

theorem readX_eq_regU (r : Reg) (s : State) : (readX r s).toNat = regU r s := rfl

theorem regU_lt (r : Reg) (s : State) : regU r s < 2 ^ s.cfg.xlen.bits := readX_toNat_lt r s

/-- The signed reading of a register is that of its sign extension to 64 bits. -/
theorem sx_toInt (r : Reg) (s : State) : (sx s.cfg.xlen (readX r s)).toInt = regS r s := by
  have h := regU_lt r s
  unfold regS regU sx at *
  cases hx : s.cfg.xlen
  · simp only [hx, Xlen.bits] at *
    rw [BitVec.toInt_signExtend_of_le (by decide), ← signedOf_toInt, BitVec.toNat_setWidth, Nat.mod_eq_of_lt h]
  · simp only [Xlen.bits]
    rw [signedOf_toInt]

theorem ReadsAs.regU (r : Reg) (s : State) : ReadsAs s.cfg.xlen (readX r s) (regU r s) := rfl

/-- The signed and the unsigned reading of a register agree modulo 2^XLEN. -/
theorem regS_emod (r : Reg) (s : State) : regS r s % 2 ^ s.cfg.xlen.bits = (Machine.regU r s : Int) % 2 ^ s.cfg.xlen.bits := by
  unfold regS signedOf
  split
  · rfl
  · simp

theorem ReadsAs.regS (r : Reg) (s : State) : ReadsAs s.cfg.xlen (readX r s) (regS r s) := (regS_emod r s).symm

theorem sext32_toInt (r : Reg) (s : State) : (Machine.sext32 (readX r s)).toInt = lowS r s := by
  unfold Machine.sext32 lowS lowU Machine.regU
  rw [BitVec.toInt_signExtend_of_le (by decide), ← signedOf_toInt, BitVec.toNat_setWidth]

theorem wide_eq (r : BitVec 3) : cReg r = wide r := by
  revert r; decide

/-! ### Immediates -/

/-- A field followed by zeros reads as a multiple of its signed value. -/
theorem toInt_append_zero {n k : Nat} (b : BitVec n) : (b ++ 0#k).toInt = b.toInt * 2 ^ k := by
  have h : (b ++ 0#k).toNat = b.toNat * 2 ^ k := by
    rw [BitVec.toNat_append]; simp [Nat.shiftLeft_eq]
  simp only [BitVec.toInt, h, Nat.pow_add]
  have hp : 0 < 2 ^ k := by positivity
  have : 2 * (b.toNat * 2 ^ k) < 2 ^ n * 2 ^ k ↔ 2 * b.toNat < 2 ^ n := by
    rw [← Nat.mul_assoc]; exact Nat.mul_lt_mul_right hp
  simp only [this]
  split <;> push_cast <;> ring

theorem ReadsAs.upperImm (xl : Xlen) {n : Nat} (u : BitVec n) : ReadsAs xl (upperImm u) (4096 * u.toInt) := by
  have := ReadsAs.signExtend xl (u ++ 0#12)
  rwa [toInt_append_zero, mul_comm] at this

theorem ReadsAs.sextHalf (xl : Xlen) {n : Nat} (u : BitVec n) : ReadsAs xl (sextHalf u) (2 * u.toInt) := by
  have := ReadsAs.signExtend xl (u ++ 0#1)
  rwa [toInt_append_zero, mul_comm] at this

theorem ReadsAs.imm16sp (xl : Xlen) (u : BitVec 6) : ReadsAs xl (imm16sp u) (16 * u.toInt) := by
  have := ReadsAs.signExtend xl (u ++ 0#4)
  rwa [toInt_append_zero, mul_comm] at this

theorem ReadsAs.sextImm (xl : Xlen) {n : Nat} (imm : BitVec n) : ReadsAs xl (sextImm imm) imm.toInt :=
  ReadsAs.signExtend _ _

theorem ReadsAs.scaledImm {n : Nat} (xl : Xlen) (k : Nat) (h : n + k ≤ 64) (b : BitVec n) :
    ReadsAs xl (scaledImm k b) (2 ^ k * b.toNat) := by
  unfold ReadsAs Machine.scaledImm
  have hl := b.isLt
  rw [BitVec.toNat_setWidth, BitVec.toNat_append]
  simp only [BitVec.zero_eq, BitVec.toNat_ofNat, Nat.zero_mod, Nat.or_zero, Nat.shiftLeft_eq]
  rw [Nat.mod_eq_of_lt]
  · push_cast; ring_nf
  · calc b.toNat * 2 ^ k < 2 ^ n * 2 ^ k := Nat.mul_lt_mul_of_pos_right hl (by positivity)
      _ = 2 ^ (n + k) := by rw [Nat.pow_add]
      _ ≤ 2 ^ 64 := Nat.pow_le_pow_right (by decide) h

theorem norm_sextImm_toNat {n : Nat} (imm : BitVec n) (s : State) :
    (Machine.norm s.cfg.xlen (Machine.sextImm imm)).toNat = (wrapX imm.toInt s).toNat := by
  have := (ReadsAs.signExtend s.cfg.xlen imm).toNat_norm
  unfold wrapX
  rw [← this]; rfl

theorem sx_sextImm (xl : Xlen) (imm : BitVec 12) : (sx xl (Machine.sextImm imm)).toInt = imm.toInt := by
  cases xl
  · have h : (imm.signExtend 64).setWidth 32 = imm.signExtend 32 := by
      apply BitVec.eq_of_getLsbD_eq
      intro i hi
      have h' : i < 64 := by omega
      rw [BitVec.getLsbD_setWidth, BitVec.getLsbD_signExtend, BitVec.getLsbD_signExtend]
      simp only [hi, h', decide_true, Bool.true_and]
    simp only [sx, Machine.sextImm, h]
    rw [BitVec.toInt_signExtend_of_le (by decide), BitVec.toInt_signExtend_of_le (by decide)]
  · simp only [sx, Machine.sextImm]
    rw [BitVec.toInt_signExtend_of_le (by decide)]

/-! ### Bitwise operations -/

theorem norm_and (xl : Xlen) (a b : Word) :
    Machine.norm xl (a &&& b) = Machine.norm xl a &&& Machine.norm xl b := by
  apply BitVec.eq_of_getLsbD_eq
  intro i hi
  simp only [norm_getLsbD, BitVec.getLsbD_and]
  cases decide (i < xl.bits) <;> simp

theorem norm_or (xl : Xlen) (a b : Word) :
    Machine.norm xl (a ||| b) = Machine.norm xl a ||| Machine.norm xl b := by
  apply BitVec.eq_of_getLsbD_eq
  intro i hi
  simp only [norm_getLsbD, BitVec.getLsbD_or]
  cases decide (i < xl.bits) <;> simp

theorem norm_xor (xl : Xlen) (a b : Word) :
    Machine.norm xl (a ^^^ b) = Machine.norm xl a ^^^ Machine.norm xl b := by
  apply BitVec.eq_of_getLsbD_eq
  intro i hi
  simp only [norm_getLsbD, BitVec.getLsbD_xor]
  cases decide (i < xl.bits) <;> simp

theorem ReadsAs.of_norm {xl : Xlen} {w w' : Word} {v : Int} (h : Machine.norm xl w = Machine.norm xl w')
    (hv : ReadsAs xl w' v) : ReadsAs xl w v := by
  unfold ReadsAs at *
  rw [← hv]
  have := congrArg BitVec.toNat h
  rw [norm_toNat, norm_toNat] at this
  exact_mod_cast this

theorem ReadsAs.andImm {n : Nat} (r : Reg) (imm : BitVec n) (s : State) :
    ReadsAs s.cfg.xlen (readX r s &&& Machine.sextImm imm) (Machine.regU r s &&& (wrapX imm.toInt s).toNat : Nat) := by
  apply ReadsAs.of_norm (w' := readX r s &&& Machine.norm s.cfg.xlen (Machine.sextImm imm))
  · rw [norm_and, norm_and, norm_norm]
  · rw [← norm_sextImm_toNat, Machine.regU, ← BitVec.toNat_and]; exact .nat _ _

theorem ReadsAs.orImm {n : Nat} (r : Reg) (imm : BitVec n) (s : State) :
    ReadsAs s.cfg.xlen (readX r s ||| Machine.sextImm imm) (Machine.regU r s ||| (wrapX imm.toInt s).toNat : Nat) := by
  apply ReadsAs.of_norm (w' := readX r s ||| Machine.norm s.cfg.xlen (Machine.sextImm imm))
  · rw [norm_or, norm_or, norm_norm]
  · rw [← norm_sextImm_toNat, Machine.regU, ← BitVec.toNat_or]; exact .nat _ _

theorem ReadsAs.xorImm {n : Nat} (r : Reg) (imm : BitVec n) (s : State) :
    ReadsAs s.cfg.xlen (readX r s ^^^ Machine.sextImm imm) (Machine.regU r s ^^^ (wrapX imm.toInt s).toNat : Nat) := by
  apply ReadsAs.of_norm (w' := readX r s ^^^ Machine.norm s.cfg.xlen (Machine.sextImm imm))
  · rw [norm_xor, norm_xor, norm_norm]
  · rw [← norm_sextImm_toNat, Machine.regU, ← BitVec.toNat_xor]; exact .nat _ _

/-- The signed comparison of the branches and SLT compares the signed readings. -/
theorem ltS_iff (xl : Xlen) (a b : Word) : ltS xl a b = true ↔ (sx xl a).toInt < (sx xl b).toInt := by
  simp [ltS, BitVec.slt]

theorem ltU_iff (a b : Word) : ltU a b = true ↔ a.toNat < b.toNat := by
  simp [ltU, BitVec.ult]

/-! ### Shifts and low words of registers -/

theorem sshiftRight_toInt (a : Word) (k : Nat) : (a.sshiftRight k).toInt = a.toInt / 2 ^ k := by
  rw [BitVec.toInt_sshiftRight, Int.shiftRight_eq_div_pow]; norm_cast

theorem ReadsAs.toInt (xl : Xlen) (w : Word) : ReadsAs xl w w.toInt := .of_eq (by simp)

theorem ReadsAs.sra (r : Reg) (k : Nat) (s : State) :
    ReadsAs s.cfg.xlen ((sx s.cfg.xlen (readX r s)).sshiftRight k) (Machine.regS r s / 2 ^ k) := by
  rw [← sx_toInt, ← sshiftRight_toInt]; exact .toInt _ _

theorem ReadsAs.srl (r : Reg) (k : Nat) (s : State) :
    ReadsAs s.cfg.xlen (readX r s >>> k) ((Machine.regU r s : Int) / 2 ^ k) := by
  have e : (readX r s >>> k).toNat = Machine.regU r s / 2 ^ k := by
    rw [BitVec.toNat_ushiftRight, Nat.shiftRight_eq_div_pow]; rfl
  have h := ReadsAs.nat s.cfg.xlen (readX r s >>> k)
  rw [e] at h; exact_mod_cast h

/-- Modulo 2^32 a register is its low word. -/
theorem ReadsAs.lowU (r : Reg) (s : State) : ReadsAs .rv32 (readX r s) (Machine.lowU r s) := by
  show ((readX r s).toNat : Int) % 2 ^ 32 = _
  unfold Machine.lowU Machine.regU
  push_cast
  simp [Xlen.bits]

theorem ReadsAs.word {xl : Xlen} {w : Word} {v : Int} (h : ReadsAs .rv32 w v) :
    ReadsAs xl (Machine.sext32 w) (wrap32 v) := .sext32 h

theorem truncBytes_four (r : Reg) (s : State) : (truncBytes 4 (readX r s)).toNat = Machine.lowU r s := by
  simp [truncBytes, Machine.lowU, Machine.regU]; omega

theorem ReadsAs.srlw (r : Reg) (k : Nat) (s : State) :
    ReadsAs .rv32 (truncBytes 4 (readX r s) >>> k) ((Machine.lowU r s : Int) / 2 ^ k) := by
  have e : (truncBytes 4 (readX r s) >>> k).toNat = Machine.lowU r s / 2 ^ k := by
    rw [BitVec.toNat_ushiftRight, Nat.shiftRight_eq_div_pow, truncBytes_four]
  have h := ReadsAs.nat .rv32 (truncBytes 4 (readX r s) >>> k)
  rw [e] at h; exact_mod_cast h

theorem ReadsAs.sraw (xl : Xlen) (r : Reg) (k : Nat) (s : State) :
    ReadsAs xl ((Machine.sext32 (readX r s)).sshiftRight k) (lowS r s / 2 ^ k) := by
  rw [← sext32_toInt, ← sshiftRight_toInt]; exact .toInt _ _

theorem shiftRegW_eq (r : Reg) (s : State) : shiftRegW r s = Machine.lowU r s % 32 := by
  unfold shiftRegW Machine.lowU Machine.regU; omega

/-! ### What an instruction that writes one register gives -/

theorem regU_writeX_same {xl : Xlen} {rd : Reg} {w : Word} {v : Int} {s : State} (hx : s.cfg.xlen = xl)
    (h : ReadsAs xl w v) : (Machine.regU rd (writeX rd w s) : Int) = if rd = 0 then 0 else v % 2 ^ xl.bits := by
  subst hx
  unfold Machine.regU
  rw [readX_writeX_same]
  split
  · simp
  · exact h.toNat_norm

theorem onlyX_writeX (rd : Reg) (w : Word) (s : State) : OnlyX rd s (writeX rd w s) := by
  refine ⟨fun r hr => readX_writeX_other hr _ _, fun a => ?_, ?_⟩
  · simp
  · unfold writeX; split <;> rfl

theorem givesX_of {i : Instr} {rd : Reg} {w : Word} {v : Int} {s : State} (h : exec i s = .next (writeX rd w s))
    (hv : rd ≠ 0 → ReadsAs s.cfg.xlen w v) : GivesX i rd v s := by
  refine ⟨_, h, ?_, onlyX_writeX rd w s, by simp⟩
  by_cases hr : rd = 0
  · subst hr; rfl
  · exact regU_writeX_same rfl (hv hr)

end Sys2Proof.Machine
end

