-- ==== Sys2Proof/Laws/Access.lean ====
section
/-!
SUPPORT. Laws/Access.lean: what the access procedures of Machine/Ops.lean do: little-endian numbers, the bus, and one
lemma for each way a data access or the fetch of a parcel ends.
-/

namespace Sys2Proof.Machine

/-! ### Little-endian numbers -/

theorem leNat_lt (m : List Host.Cell) (a n : Nat) : leNat m a n < 2 ^ (8 * n) := by
  induction n generalizing a with
  | zero => simp [leNat]
  | succ n ih =>
    have h1 := (readByte m a).isLt
    have h2 := ih (a + 1)
    rw [show 8 * (n + 1) = 8 * n + 8 by omega, Nat.pow_add]
    simp only [leNat]
    omega

/-- Bytes read as a word are the little-endian number. -/
theorem readBytes_toNat (m : List Host.Cell) (a : Nat) {n : Nat} (h : n ≤ 8) :
    (readBytes m a n).toNat = leNat m a n := by
  induction n generalizing a with
  | zero => rfl
  | succ n ih =>
    have h1 := (readByte m a).isLt
    have h2 := leNat_lt m (a + 1) n
    have h3 : 2 ^ (8 * n) * 2 ^ 8 ≤ 2 ^ 64 := by rw [← Nat.pow_add]; exact Nat.pow_le_pow_right (by decide) (by omega)
    rw [readBytes, leNat, BitVec.toNat_or, BitVec.toNat_shiftLeft, ih _ (by omega), BitVec.toNat_setWidth,
      Nat.mod_eq_of_lt (show (readByte m a).toNat < 2 ^ 64 by omega), Nat.shiftLeft_eq,
      Nat.mod_eq_of_lt (by omega), ← Nat.shiftLeft_eq, ← Nat.shiftLeft_add_eq_or_of_lt h1, Nat.shiftLeft_eq]
    omega

theorem leNat_congr {m m' : List Host.Cell} {a n : Nat} (h : ∀ k, k < n → readByte m' (a + k) = readByte m (a + k)) :
    leNat m' a n = leNat m a n := by
  induction n generalizing a with
  | zero => rfl
  | succ n ih =>
    simp only [leNat]
    have h0 : readByte m' a = readByte m a := h 0 (by omega)
    rw [h0, ih (fun k hk => by have := h (k + 1) (by omega); rwa [Nat.add_assoc, Nat.add_comm 1 k])]

/-- The little-endian number where a value was stored. -/
theorem leNat_writeBytes_same {n : Nat} (hn : n ≤ 8) (m : List Host.Cell) (a : Nat) (v : Word) :
    leNat (writeBytes m a n v) a n = v.toNat % 2 ^ (8 * n) := by
  rw [← readBytes_toNat _ _ hn, readBytes_writeBytes_same hn]

/-- Byte `k` of a stored value, as a number. -/
theorem readByte_writeBytes_toNat {n k : Nat} (h : k < n) (m : List Host.Cell) (a : Nat) (v : Word) :
    (readByte (writeBytes m a n v) (a + k)).toNat = v.toNat / 256 ^ k % 256 := by
  rw [readByte_writeBytes_inside h, BitVec.toNat_setWidth, BitVec.toNat_ushiftRight, Nat.shiftRight_eq_div_pow,
    Nat.pow_mul]

theorem sameMemoryOutside_writeBytes (s : State) (a n : Nat) (v : Word) (t : State) (h : t.mem = writeBytes s.mem a n v) :
    SameMemoryOutside a n s t := fun b hb => by rw [h, readByte_writeBytes_outside hb]

/-! ### Values of `n` bytes -/

/-- An access width. -/
abbrev IsWidth (n : Nat) : Prop := n = 1 ∨ n = 2 ∨ n = 4 ∨ n = 8

theorem IsWidth.le {n : Nat} (h : IsWidth n) : n ≤ 8 := by omega

theorem truncBytes_toNat {n : Nat} (h : IsWidth n) (v : Word) : (truncBytes n v).toNat = v.toNat % 2 ^ (8 * n) := by
  rcases h with rfl | rfl | rfl | rfl <;> simp [truncBytes] <;> omega

theorem truncBytes_eq_ofNat {n : Nat} (h : IsWidth n) (v : Word) :
    truncBytes n v = BitVec.ofNat 64 (v.toNat % 2 ^ (8 * n)) := by
  apply BitVec.eq_of_toNat_eq
  rw [truncBytes_toNat h, BitVec.toNat_ofNat]
  have := Nat.mod_le v.toNat (2 ^ (8 * n))
  exact (Nat.mod_eq_of_lt (by omega)).symm

/-- Sign extension of a value that has `n` bytes. -/
theorem sextBytes_eq {n : Nat} (h : IsWidth n) {v : Word} (hv : v.toNat < 2 ^ (8 * n)) :
    sextBytes n v = BitVec.ofInt 64 (signedOf (8 * n) v.toNat) := by
  have key : ∀ w, w ≤ 64 → v.toNat < 2 ^ w → (v.setWidth w).signExtend 64 = BitVec.ofInt 64 (signedOf w v.toNat) := by
    intro w hw hl
    have e : (v.setWidth w).toNat = v.toNat := by rw [BitVec.toNat_setWidth, Nat.mod_eq_of_lt hl]
    rw [← e, signedOf_toInt]; rfl
  rcases h with rfl | rfl | rfl | rfl
  · exact key 8 (by decide) hv
  · exact key 16 (by decide) hv
  · exact key 32 (by decide) hv
  · rw [signedOf_toInt]; simp [sextBytes]

/-! ### The bus -/

/-- Where nothing arrived during the step, every read sees memory. -/
theorem seenByte_of_former_nil {slot : Slot} {level : Option Nat} {s : State} (h : s.former = []) (a : Nat) :
    seenByte slot level s a = readByte s.mem a := by
  simp [seenByte, h, formerByte]

/-- The data access comes after every store that arrives during the step. -/
theorem formerByte_last {rank : Nat} (h : 17 ≤ rank) (a : Nat) (l : List (Nat × Host.Cell)) :
    formerByte rank a l = none := by
  induction l with
  | nil => rfl
  | cons e l ih => rw [formerByte, if_neg (by omega), ih]

theorem seenByte_data (s : State) (a : Nat) : seenByte .data none s a = readByte s.mem a := by
  simp [seenByte, formerByte_last (show 17 ≤ accessRank .data none by decide)]

/-- Bytes a read sees make the little-endian number of those bytes. -/
theorem seenBytes_congr {slot : Slot} {level : Option Nat} {s : State} {m : List Host.Cell} {a n : Nat}
    (h : ∀ k, k < n → seenByte slot level s (a + k) = readByte m (a + k)) :
    seenBytes slot level s a n = readBytes m a n := by
  induction n generalizing a with
  | zero => rfl
  | succ n ih =>
    rw [seenBytes, readBytes, show seenByte slot level s a = readByte m a from h 0 (by omega),
      ih fun k hk => by have := h (k + 1) (by omega); rwa [Nat.add_assoc, Nat.add_comm 1 k]]

theorem physRead_ram {slot : Slot} {level : Option Nat} {pa n : Nat} {s : State} (h : InRam pa n s) :
    physRead slot level pa n s = some (seenBytes slot level s pa n) := by
  obtain ⟨⟨b, z, k⟩, hr, hk⟩ := h
  cases hk
  simp [physRead, hr]

theorem physRead_data_ram {pa n : Nat} {s : State} (h : InRam pa n s) :
    physRead .data none pa n s = some (readBytes s.mem pa n) := by
  rw [physRead_ram h, seenBytes_congr fun _ _ => seenByte_data s _]

theorem physRead_device {slot : Slot} {level : Option Nat} {pa n : Nat} {s : State} (h : InDevice pa n s) :
    physRead slot level pa n s = (Config.deviceRead s.draws slot level pa n).map (truncBytes n) := by
  obtain ⟨⟨b, z, k⟩, hr, hk⟩ := h
  cases hk
  simp [physRead, hr]

theorem physRead_none {slot : Slot} {level : Option Nat} {pa n : Nat} {s : State} (h : regionOf s.cfg.bus pa n = none) :
    physRead slot level pa n s = none := by
  simp [physRead, h]

theorem physWrite_ram {pa n : Nat} {v : Word} {s : State} (h : InRam pa n s) :
    physWrite pa n v s = some { s with mem := writeBytes s.mem pa n v } := by
  obtain ⟨⟨b, z, k⟩, hr, hk⟩ := h
  cases hk
  simp [physWrite, hr]

theorem physWrite_device {pa n : Nat} {v : Word} {s : State} (h : InDevice pa n s) :
    physWrite pa n v s = if Config.deviceWrite s.draws pa n (truncBytes n v) then some s else none := by
  obtain ⟨⟨b, z, k⟩, hr, hk⟩ := h
  cases hk
  simp [physWrite, hr]

theorem physWrite_none {pa n : Nat} {v : Word} {s : State} (h : regionOf s.cfg.bus pa n = none) :
    physWrite pa n v s = none := by
  simp [physWrite, h]

theorem physAtomic_ram {kind : AtomicKind} {pa n : Nat} {v : Word} {s : State} (h : InRam pa n s) :
    physAtomic kind pa n v s = some (readBytes s.mem pa n,
      { s with mem := writeBytes s.mem pa n (combine kind n (readBytes s.mem pa n) v) }) := by
  obtain ⟨⟨b, z, k⟩, hr, hk⟩ := h
  cases hk
  simp [physAtomic, hr]

theorem physAtomic_device {kind : AtomicKind} {pa n : Nat} {v : Word} {s : State} (h : InDevice pa n s) :
    physAtomic kind pa n v s = (Config.deviceAtomic s.draws kind pa n v).map (fun old => (truncBytes n old, s)) := by
  obtain ⟨⟨b, z, k⟩, hr, hk⟩ := h
  cases hk
  simp [physAtomic, hr]

theorem physCas_ram {pa n : Nat} {e v : Word} {s : State} (h : InRam pa n s) :
    physCas pa n e v s = if readBytes s.mem pa n = e then some (true, { s with mem := writeBytes s.mem pa n v })
      else some (false, s) := by
  obtain ⟨⟨b, z, k⟩, hr, hk⟩ := h
  cases hk
  simp [physCas, hr]

theorem physCas_device {pa n : Nat} {e v : Word} {s : State} (h : InDevice pa n s) :
    physCas pa n e v s = (Config.deviceCas s.draws pa n e v).map (fun ok => (ok, s)) := by
  obtain ⟨⟨b, z, k⟩, hr, hk⟩ := h
  cases hk
  simp [physCas, hr]

/-! ### The checks of an access -/

theorem dataAddr_misaligned {acc : Access} {ea : Word} {n : Nat} {s : State} (h : ea.toNat % n ≠ 0) :
    dataAddr acc ea n s = .error ⟨misalignedCause acc, ea⟩ := by
  simp [dataAddr, h]

theorem dataAddr_untranslated {acc : Access} {ea : Word} {n : Nat} {s : State} {k : XlateFault}
    (h : ea.toNat % n = 0) (ht : translate acc .data ea s = .error k) :
    dataAddr acc ea n s = .error ⟨faultCause acc k, ea⟩ := by
  simp [dataAddr, h, ht]

theorem dataAddr_denied {acc : Access} {ea : Word} {n pa : Nat} {s : State}
    (h : ea.toNat % n = 0) (ht : translate acc .data ea s = .ok pa) (hp : pmpOk acc pa n s = false) :
    dataAddr acc ea n s = .error ⟨faultCause acc .accessFault, ea⟩ := by
  simp [dataAddr, h, ht, hp]

theorem Passes.dataAddr {acc : Access} {ea : Word} {n pa : Nat} {s : State} (h : Passes acc ea n pa s) :
    dataAddr acc ea n s = .ok pa := by
  simp [Machine.dataAddr, h.aligned, h.translated, h.permitted]

/-- An access that gives an address has passed its checks. -/
theorem dataAddr_ok {acc : Access} {ea : Word} {n pa : Nat} {s : State} (h : Machine.dataAddr acc ea n s = .ok pa) :
    Passes acc ea n pa s := by
  unfold Machine.dataAddr at h
  split at h
  · cases h
  · rename_i ha
    split at h
    · cases h
    · rename_i ht
      split at h
      · rename_i hp; cases h; exact ⟨by omega, ht, hp⟩
      · cases h

/-- What a load that succeeds reads. -/
theorem Loads.memRead {ea : Word} {n pa v : Nat} {s : State} (hn : IsWidth n) (h : Loads ea n pa v s) :
    ∃ w, memRead ea n s = .ok w ∧ w.toNat = v ∧ v < 2 ^ (8 * n) := by
  have ha := h.passes.dataAddr
  rcases h.value with ⟨hr, rfl⟩ | ⟨hd, w, hw, rfl⟩
  · refine ⟨readBytes s.mem pa n, ?_, readBytes_toNat _ _ hn.le, leNat_lt _ _ _⟩
    simp [Machine.memRead, ha, physRead_data_ram hr]
  · refine ⟨truncBytes n w, ?_, truncBytes_toNat hn w, Nat.mod_lt _ (by positivity)⟩
    simp [Machine.memRead, ha, physRead_device hd, hw]

theorem memRead_none {ea : Word} {n pa : Nat} {s : State} (h : Passes .load ea n pa s)
    (hr : physRead .data none pa n s = none) : memRead ea n s = .error ⟨.loadAccessFault, ea⟩ := by
  simp [Machine.memRead, h.dataAddr, hr]

theorem memWrite_some {ea : Word} {n pa : Nat} {v : Word} {s t : State} (h : Passes .store ea n pa s)
    (hw : physWrite pa n v s = some t) : memWrite ea n v s = .ok t := by
  simp [Machine.memWrite, h.dataAddr, hw]

theorem storeBytes_some {ea : Word} {n pa : Nat} {v : Word} {s t : State} (h : Passes .store ea n pa s)
    (hw : physWrite pa n v s = some t) : storeBytes ea n v s = t := by
  rw [storeBytes, memWrite_some h hw]

theorem memWrite_none {ea : Word} {n pa : Nat} {v : Word} {s : State} (h : Passes .store ea n pa s)
    (hw : physWrite pa n v s = none) : memWrite ea n v s = .error ⟨.storeAccessFault, ea⟩ := by
  simp [Machine.memWrite, h.dataAddr, hw]

theorem storeBytes_none {ea : Word} {n pa : Nat} {v : Word} {s : State} (h : Passes .store ea n pa s)
    (hw : physWrite pa n v s = none) : storeBytes ea n v s = deliver ⟨.storeAccessFault, ea⟩ s := by
  rw [storeBytes, memWrite_none h hw]

/-- A store that passes its checks, in the words of Safety.lean. -/
theorem givesStore_of {i : Instr} {ea : Word} {n : Nat} {v : Word} {s : State} (hn : IsWidth n)
    (h : exec i s = .next (storeBytes ea n v s)) : GivesStore i ea n v.toNat s := by
  intro pa hp
  refine ⟨fun hr => ?_, fun hd => ?_⟩
  · rw [storeBytes_some hp (physWrite_ram hr)] at h
    exact ⟨_, h, ⟨sameMemoryOutside_writeBytes s pa n v _ rfl, rfl⟩, rfl,
      fun k hk => readByte_writeBytes_toNat hk _ _ _⟩
  · rw [← truncBytes_eq_ofNat hn]
    refine ⟨fun hw => ?_, fun hw => ?_⟩
    · rw [h, storeBytes_some hp ((physWrite_device hd).trans (if_pos hw))]
    · rw [h, storeBytes_none hp ((physWrite_device hd).trans (if_neg (by simp [hw])))]

/-- A load that passes its checks, in the words of Safety.lean. -/
theorem givesX_load {i : Instr} {rd : Reg} {ea : Word} {n pa v : Nat} {s : State} (hn : IsWidth n) (hl : Loads ea n pa v s)
    (ext : Ext) (h : exec i s = .next (loadX rd ea n ext s)) :
    GivesX i rd (match ext with | .signed => signedOf (8 * n) v | .unsigned => v) s := by
  obtain ⟨w, hw, rfl, hlt⟩ := hl.memRead hn
  refine givesX_of (w := extendLoad ext n w) (h.trans (by rw [loadX, hw])) fun _ => ?_
  cases ext
  · exact .of_eq (sextBytes_eq hn hlt)
  · exact .nat _ _

/-! ### The fetch of a parcel -/

/-- The fetch of a parcel that fails raises its exception with the parcel's address. -/
theorem ParcelFails.fetchParcel {slot : Slot} {va : Word} {c : Cause} {s : State} (h : ParcelFails slot va c s) :
    Machine.fetchParcel slot va s = .error ⟨c, va⟩ := by
  rcases h with ⟨ht, rfl⟩ | ⟨rfl, ht | ⟨pa, ht, hp | hr | ⟨hd, hr⟩⟩⟩
  · simp [Machine.fetchParcel, ht, faultCause]
  · simp [Machine.fetchParcel, ht, faultCause]
  · simp [Machine.fetchParcel, ht, hp]
  · simp [Machine.fetchParcel, ht, physRead_none hr]
  · simp [Machine.fetchParcel, ht, physRead_device hd, hr]

/-- The fetch of a parcel that succeeds gives its number. -/
theorem ParcelReads.fetchParcel {slot : Slot} {va : Word} {v : Nat} {s : State} (h : ParcelReads slot va v s) :
    Machine.fetchParcel slot va s = .ok (BitVec.ofNat 16 v) ∧ v < 2 ^ 16 := by
  obtain ⟨pa, ht, hp, ⟨hr, rfl⟩ | ⟨hd, w, hr, rfl⟩⟩ := h
  · have h0 := (seenByte slot none s pa).isLt
    have h1 := (seenByte slot none s (pa + 1)).isLt
    refine ⟨?_, by omega⟩
    simp only [Machine.fetchParcel, ht, hp, if_true, physRead_ram hr, seenBytes]
    congr 1
    apply BitVec.eq_of_toNat_eq
    have h2 : (seenByte slot none s (pa + 1)).toNat % 65536 = (seenByte slot none s (pa + 1)).toNat := by omega
    have h3 := Nat.shiftLeft_add_eq_or_of_lt h0 (seenByte slot none s (pa + 1)).toNat
    have h4 : (seenByte slot none s pa).toNat % 65536 = (seenByte slot none s pa).toNat := by omega
    have h5 : (seenByte slot none s (pa + 1)).toNat <<< 8 % 65536 = (seenByte slot none s (pa + 1)).toNat <<< 8 := by
      rw [Nat.shiftLeft_eq]; omega
    simp [h2, h4, h5, ← h3]
    omega
  · refine ⟨?_, Nat.mod_lt _ (by decide)⟩
    simp only [Machine.fetchParcel, ht, hp, if_true, physRead_device hd, hr, Option.map_some]
    rfl

end Sys2Proof.Machine
end

