-- ==== Sys2Proof/Laws/Bits.lean ====
section
/-!
SUPPORT. Laws/Bits.lean: each bit of a word after the field operations of Machine/Bits.lean.
-/

namespace Sys2Proof.Machine

/-- Bit `k` of a word with a field replaced. -/
theorem bit_setField {w : Nat} (hw : w < 64) (v f : Word) (lo k : Nat) (hk : k < 64) :
    bit (setField v lo w f) k = if lo ≤ k ∧ k < lo + w then bit f (k - lo) else bit v k := by
  have hm : ∀ j, (BitVec.ofNat 64 (2 ^ w - 1)).getLsbD j = decide (j < w) := by
    intro j
    rw [BitVec.getLsbD_ofNat, Nat.testBit_two_pow_sub_one]
    by_cases hj : j < 64
    · simp [hj]
    · have : ¬ j < w := by omega
      simp [hj, this]
  simp only [bit, setField, BitVec.getLsbD_or, BitVec.getLsbD_and, BitVec.getLsbD_not, BitVec.getLsbD_shiftLeft, hm, hk,
    decide_true, Bool.true_and]
  by_cases h1 : k < lo
  · have : ¬ (lo ≤ k ∧ k < lo + w) := by omega
    simp [h1, this]
  · by_cases h2 : k - lo < w
    · have h3 : lo ≤ k ∧ k < lo + w := by omega
      rw [if_pos h3]; simp [h1, h2]
    · have h3 : ¬ (lo ≤ k ∧ k < lo + w) := by omega
      rw [if_neg h3]; simp [h2]

/-- Bit `k` of a word with one bit replaced. -/
theorem bit_setBit (v : Word) (i : Nat) (b : Bool) (k : Nat) (hk : k < 64) :
    bit (setBit v i b) k = if k = i then b else bit v k := by
  rw [setBit, bit_setField (by decide) _ _ _ _ hk]
  by_cases h : k = i
  · subst h; simp [bit]; cases b <;> rfl
  · have : ¬ (i ≤ k ∧ k < i + 1) := by omega
    rw [if_neg this, if_neg h]

theorem bit_mergeMask (mask old new : Word) (k : Nat) (hk : k < 64) :
    bit (mergeMask mask old new) k = if bit mask k then bit new k else bit old k := by
  simp only [bit, mergeMask, BitVec.getLsbD_or, BitVec.getLsbD_and, BitVec.getLsbD_not, hk, decide_true, Bool.true_and]
  by_cases h : mask.getLsbD k <;> simp [h]

theorem bit_and (a b : Word) (k : Nat) : bit (a &&& b) k = (bit a k && bit b k) := BitVec.getLsbD_and ..

theorem bit_of_ge (v : Word) {k : Nat} (h : 64 ≤ k) : bit v k = false := BitVec.getLsbD_of_ge _ _ h

/-- Two words with the same bits are equal. -/
theorem word_ext {a b : Word} (h : ∀ k, k < 64 → bit a k = bit b k) : a = b := BitVec.eq_of_getLsbD_eq h

theorem extractLsb'_eq_iff {w : Nat} (v : Word) (lo : Nat) (f : BitVec w) :
    v.extractLsb' lo w = f ↔ ∀ k, k < w → bit v (lo + k) = f.getLsbD k := by
  constructor
  · intro h k hk; subst h; simp [bit, hk]
  · intro h
    apply BitVec.eq_of_getLsbD_eq
    intro k hk
    rw [BitVec.getLsbD_extractLsb']
    simp only [hk, decide_true, Bool.true_and]
    exact h k hk

theorem bit_withSD (xl : Xlen) (m : Word) (k : Nat) (hk : k < 64) :
    bit (withSD xl m) k = if k = xl.bits - 1 then bit m 13 && bit m 14 else bit m k := by
  rw [withSD, bit_setBit _ _ _ _ hk]
  congr 1
  rw [Bool.eq_iff_iff, beq_iff_eq, extractLsb'_eq_iff, Bool.and_eq_true]
  constructor
  · exact fun h => ⟨h 0 (by decide), h 1 (by decide)⟩
  · rintro ⟨h0, h1⟩ j hj
    interval_cases j
    · exact h0
    · exact h1

end Sys2Proof.Machine
end

