-- ==== Sys2Proof/Laws/Arrivals.lean ====
section
/-!
SUPPORT. Laws/Arrivals.lean: what the outside does to the hart before and during a step (Machine/Env.lean): which fields
each arrival reaches and what they hold afterwards.
-/

namespace Sys2Proof.Machine

/-! ### Line calls -/

/-- Line calls reach `mip` alone, and each bit of it is that of its own calls. -/
theorem lines_cases (calls : List (Irq × Bool)) (s : State) :
    ∃ m, calls.foldl (fun s l => applyLine l s) s = { s with mip := m }
      ∧ ∀ k, k < 64 → bit m k = lineAfter calls k (bit s.mip k) := by
  induction calls generalizing s with
  | nil => exact ⟨s.mip, rfl, fun _ _ => rfl⟩
  | cons l calls ih =>
    obtain ⟨m, h, hb⟩ := ih (applyLine l s)
    refine ⟨m, h, fun k hk => ?_⟩
    rw [hb k hk, applyLine, bit_setBit _ _ _ _ hk]
    simp [lineAfter, eq_comm]

/-! ### Stores of other agents before the step -/

/-- One byte stored by another agent reaches memory alone, only where a memory region holds it. -/
theorem applyBusWrite_cases (c : Host.Cell) (s : State) :
    ∃ m, applyBusWrite c s = { s with mem := m } ∧ (Memory.wf s.mem → Memory.wf m)
      ∧ ∀ a, readByte m a = if c.1 = a ∧ ∃ r ∈ regionOf s.cfg.bus a 1, r.kind = .ram then c.2 else readByte s.mem a := by
  unfold applyBusWrite
  split
  · rename_i b z hr
    refine ⟨_, rfl, fun h => Memory.wf_writeByte h _ _, fun a => ?_⟩
    by_cases ha : c.1 = a
    · subst ha; simp [hr]
    · simp [ha, readByte_writeByte_other (Ne.symm ha)]
  · rename_i hr
    refine ⟨s.mem, rfl, id, fun a => (if_neg ?_).symm⟩
    rintro ⟨rfl, ⟨b, z, k⟩, hm, hk⟩
    exact hr b z (by simp_all)

/-- Bytes stored by other agents, one after the other. -/
theorem busWrites_cases (writes : List Host.Cell) (s : State) :
    ∃ m, writes.foldl (fun s c => applyBusWrite c s) s = { s with mem := m } ∧ (Memory.wf s.mem → Memory.wf m)
      ∧ ∀ a, readByte m a = byteAfter writes s a := by
  induction writes generalizing s with
  | nil => exact ⟨s.mem, rfl, id, fun _ => rfl⟩
  | cons c writes ih =>
    obtain ⟨m, h, hw, hb⟩ := applyBusWrite_cases c s
    obtain ⟨m', h', hw', hb'⟩ := ih (applyBusWrite c s)
    rw [h] at h' hw' hb'
    refine ⟨m', by rw [List.foldl_cons, h]; exact h', fun hs => hw' (hw hs), fun a => ?_⟩
    rw [hb' a]
    simp only [byteAfter, List.foldl_cons, hb a]

/-! ### Stores of other agents during the step -/

/-- A byte stored during the step reaches memory as one stored before it does; what the byte held stays in `former`. -/
theorem applyLateWrite_cases (w : Nat × Host.Cell) (s : State) :
    ∃ m, applyLateWrite w s = { s with mem := m, former := s.former ++ [(w.1, (w.2.1, readByte s.mem w.2.1))] }
      ∧ (Memory.wf s.mem → Memory.wf m)
      ∧ ∀ a, readByte m a
          = if w.2.1 = a ∧ ∃ r ∈ regionOf s.cfg.bus a 1, r.kind = .ram then w.2.2 else readByte s.mem a := by
  obtain ⟨m, h, hw⟩ := applyBusWrite_cases w.2 s
  exact ⟨m, by rw [applyLateWrite, h], hw⟩

/-- Bytes stored during the step, one after the other. -/
theorem lateWrites_cases (writes : List (Nat × Host.Cell)) (s : State) :
    ∃ m f, writes.foldl (fun s w => applyLateWrite w s) s = { s with mem := m, former := f }
      ∧ (Memory.wf s.mem → Memory.wf m) ∧ ∀ a, readByte m a = byteAfter (writes.map (·.2)) s a := by
  induction writes generalizing s with
  | nil => exact ⟨s.mem, s.former, rfl, id, fun _ => rfl⟩
  | cons w writes ih =>
    obtain ⟨m, h, hw, hb⟩ := applyLateWrite_cases w s
    obtain ⟨m', f, h', hw', hb'⟩ := ih (applyLateWrite w s)
    rw [h] at h' hw' hb'
    refine ⟨m', f, by rw [List.foldl_cons, h]; exact h', fun hs => hw' (hw hs), fun a => ?_⟩
    rw [hb' a]
    simp only [byteAfter, List.map_cons, List.foldl_cons, hb a]

theorem formerByte_append (rank a : Nat) (l : List (Nat × Host.Cell)) (e : Nat × Host.Cell) :
    formerByte rank a (l ++ [e]) = (formerByte rank a l).or (formerByte rank a [e]) := by
  induction l with
  | nil => simp [formerByte]
  | cons d l ih =>
    rw [List.cons_append, formerByte, formerByte]
    split
    · rfl
    · exact ih

/-- A read before a store's place does not see it. -/
theorem seenByte_applyLateWrite_before {slot : Slot} {level : Option Nat} {w : Nat × Host.Cell} {s : State}
    (h : accessRank slot level < w.1) (hr : accessRank slot level < 17) (a : Nat) :
    seenByte slot level (applyLateWrite w s) a = seenByte slot level s a := by
  obtain ⟨m, he, -, hb⟩ := applyLateWrite_cases w s
  simp only [seenByte, he, formerByte_append]
  cases formerByte (accessRank slot level) a s.former with
  | some b => rfl
  | none =>
    by_cases ha : w.2.1 = a
    · subst ha; simp [formerByte, h, hr]
    · simp [formerByte, ha, hb]

/-- A read at a store's place or after it does not look for what the byte held before it. -/
theorem formerByte_applyLateWrite_after {rank : Nat} {w : Nat × Host.Cell} {s : State} {a : Nat} (h : w.1 ≤ rank)
    (hf : formerByte rank a s.former = none) : formerByte rank a (applyLateWrite w s).former = none := by
  simp [applyLateWrite, formerByte_append, hf, formerByte, Nat.not_lt.2 h]

/-! ### The step's own start -/

@[simp] theorem advanceUptime_uptime (d : BitVec 64) (s : State) :
    (advanceUptime d s).uptime.toNat = min (s.uptime.toNat + d.toNat) (2 ^ 64 - 1) := by
  simp only [advanceUptime]
  split
  · rw [BitVec.toNat_add]; omega
  · have := d.isLt
    simp; omega

/-- A deadline that has passed sets the line and goes, unless the facility waits; else nothing happens. -/
theorem fireTimer_cases (waits : Bool) (s : State) :
    (∃ d, s.timerDeadline = some d ∧ d.toNat ≤ s.uptime.toNat ∧ waits = false
      ∧ fireTimer waits s = { s with mip := setBit s.mip 5 true, timerDeadline := none })
    ∨ (¬(∃ d, s.timerDeadline = some d ∧ d.toNat ≤ s.uptime.toNat ∧ waits = false) ∧ fireTimer waits s = s) := by
  unfold fireTimer
  cases h : s.timerDeadline with
  | none => exact .inr ⟨by simp, rfl⟩
  | some d =>
    by_cases hc : d ≤ s.uptime ∧ waits = false
    · exact .inl ⟨d, rfl, hc.1, hc.2, if_pos hc⟩
    · refine .inr ⟨?_, if_neg hc⟩
      rintro ⟨e, he, h1, h2⟩
      cases he
      exact hc ⟨h1, h2⟩

/-- Reservations go only where `RESV_SPURIOUS` holds, and none comes. -/
theorem dropReservations_cases (keys : List Nat) (s : State) :
    ∃ r, dropReservations keys s = { s with resv := r } ∧ (∀ e, e ∈ r → e ∈ s.resv)
      ∧ (s.cfg.resvSpurious = false → r = s.resv) ∧ (keysSorted s.resv → keysSorted r) := by
  unfold dropReservations
  split
  · exact ⟨_, rfl, fun e he => List.mem_of_mem_filter he, by simp_all, fun h => List.Pairwise.filter _ h⟩
  · exact ⟨s.resv, rfl, fun _ => id, fun _ => rfl, id⟩

end Sys2Proof.Machine
end

