-- ==== Sys2Proof/Laws/Encoding.lean ====
section
/-!
SUPPORT. Laws/Encoding.lean: for every format of 30_encoding.md rules R333 and R380, what the decoder's field
extractors read back from an encoded word.
-/

namespace Sys2Proof

/-! ### `encR` -/

@[simp] theorem fOpcode_encR (funct7 : BitVec 7) (rs2 rs1 : BitVec 5) (funct3 : BitVec 3) (rd : BitVec 5) (op : BitVec 7) :
    fOpcode (encR funct7 rs2 rs1 funct3 rd op) = op := by
  apply BitVec.eq_of_getLsbD_eq
  intro i hi
  simp only [fOpcode, encR, BitVec.getLsbD_extractLsb', BitVec.getLsbD_append]
  interval_cases i <;> simp

@[simp] theorem fRd_encR (funct7 : BitVec 7) (rs2 rs1 : BitVec 5) (funct3 : BitVec 3) (rd : BitVec 5) (op : BitVec 7) :
    fRd (encR funct7 rs2 rs1 funct3 rd op) = rd := by
  apply BitVec.eq_of_getLsbD_eq
  intro i hi
  simp only [fRd, encR, BitVec.getLsbD_extractLsb', BitVec.getLsbD_append]
  interval_cases i <;> simp

@[simp] theorem fFunct3_encR (funct7 : BitVec 7) (rs2 rs1 : BitVec 5) (funct3 : BitVec 3) (rd : BitVec 5) (op : BitVec 7) :
    fFunct3 (encR funct7 rs2 rs1 funct3 rd op) = funct3 := by
  apply BitVec.eq_of_getLsbD_eq
  intro i hi
  simp only [fFunct3, encR, BitVec.getLsbD_extractLsb', BitVec.getLsbD_append]
  interval_cases i <;> simp

@[simp] theorem fRs1_encR (funct7 : BitVec 7) (rs2 rs1 : BitVec 5) (funct3 : BitVec 3) (rd : BitVec 5) (op : BitVec 7) :
    fRs1 (encR funct7 rs2 rs1 funct3 rd op) = rs1 := by
  apply BitVec.eq_of_getLsbD_eq
  intro i hi
  simp only [fRs1, encR, BitVec.getLsbD_extractLsb', BitVec.getLsbD_append]
  interval_cases i <;> simp

@[simp] theorem fRs2_encR (funct7 : BitVec 7) (rs2 rs1 : BitVec 5) (funct3 : BitVec 3) (rd : BitVec 5) (op : BitVec 7) :
    fRs2 (encR funct7 rs2 rs1 funct3 rd op) = rs2 := by
  apply BitVec.eq_of_getLsbD_eq
  intro i hi
  simp only [fRs2, encR, BitVec.getLsbD_extractLsb', BitVec.getLsbD_append]
  interval_cases i <;> simp

@[simp] theorem fFunct7_encR (funct7 : BitVec 7) (rs2 rs1 : BitVec 5) (funct3 : BitVec 3) (rd : BitVec 5) (op : BitVec 7) :
    fFunct7 (encR funct7 rs2 rs1 funct3 rd op) = funct7 := by
  apply BitVec.eq_of_getLsbD_eq
  intro i hi
  simp only [fFunct7, encR, BitVec.getLsbD_extractLsb', BitVec.getLsbD_append]
  interval_cases i <;> simp

@[simp] theorem low2_encR (funct7 : BitVec 7) (rs2 rs1 : BitVec 5) (funct3 : BitVec 3) (rd : BitVec 5) (op : BitVec 7) :
    (encR funct7 rs2 rs1 funct3 rd op).extractLsb' 0 2 = op.extractLsb' 0 2 := by
  apply BitVec.eq_of_getLsbD_eq
  intro i hi
  simp only [encR, BitVec.getLsbD_extractLsb', BitVec.getLsbD_append]
  interval_cases i <;> simp

/-! ### `encI` -/

@[simp] theorem fOpcode_encI (imm : BitVec 12) (rs1 : BitVec 5) (funct3 : BitVec 3) (rd : BitVec 5) (op : BitVec 7) :
    fOpcode (encI imm rs1 funct3 rd op) = op := by
  apply BitVec.eq_of_getLsbD_eq
  intro i hi
  simp only [fOpcode, encI, BitVec.getLsbD_extractLsb', BitVec.getLsbD_append]
  interval_cases i <;> simp

@[simp] theorem fRd_encI (imm : BitVec 12) (rs1 : BitVec 5) (funct3 : BitVec 3) (rd : BitVec 5) (op : BitVec 7) :
    fRd (encI imm rs1 funct3 rd op) = rd := by
  apply BitVec.eq_of_getLsbD_eq
  intro i hi
  simp only [fRd, encI, BitVec.getLsbD_extractLsb', BitVec.getLsbD_append]
  interval_cases i <;> simp

@[simp] theorem fFunct3_encI (imm : BitVec 12) (rs1 : BitVec 5) (funct3 : BitVec 3) (rd : BitVec 5) (op : BitVec 7) :
    fFunct3 (encI imm rs1 funct3 rd op) = funct3 := by
  apply BitVec.eq_of_getLsbD_eq
  intro i hi
  simp only [fFunct3, encI, BitVec.getLsbD_extractLsb', BitVec.getLsbD_append]
  interval_cases i <;> simp

@[simp] theorem fRs1_encI (imm : BitVec 12) (rs1 : BitVec 5) (funct3 : BitVec 3) (rd : BitVec 5) (op : BitVec 7) :
    fRs1 (encI imm rs1 funct3 rd op) = rs1 := by
  apply BitVec.eq_of_getLsbD_eq
  intro i hi
  simp only [fRs1, encI, BitVec.getLsbD_extractLsb', BitVec.getLsbD_append]
  interval_cases i <;> simp

@[simp] theorem fImmI_encI (imm : BitVec 12) (rs1 : BitVec 5) (funct3 : BitVec 3) (rd : BitVec 5) (op : BitVec 7) :
    fImmI (encI imm rs1 funct3 rd op) = imm := by
  apply BitVec.eq_of_getLsbD_eq
  intro i hi
  simp only [fImmI, encI, BitVec.getLsbD_extractLsb', BitVec.getLsbD_append]
  interval_cases i <;> simp

@[simp] theorem low2_encI (imm : BitVec 12) (rs1 : BitVec 5) (funct3 : BitVec 3) (rd : BitVec 5) (op : BitVec 7) :
    (encI imm rs1 funct3 rd op).extractLsb' 0 2 = op.extractLsb' 0 2 := by
  apply BitVec.eq_of_getLsbD_eq
  intro i hi
  simp only [encI, BitVec.getLsbD_extractLsb', BitVec.getLsbD_append]
  interval_cases i <;> simp

/-! ### `encS` -/

@[simp] theorem fOpcode_encS (imm : BitVec 12) (rs2 rs1 : BitVec 5) (funct3 : BitVec 3) (op : BitVec 7) :
    fOpcode (encS imm rs2 rs1 funct3 op) = op := by
  apply BitVec.eq_of_getLsbD_eq
  intro i hi
  simp only [fOpcode, encS, BitVec.getLsbD_extractLsb', BitVec.getLsbD_append]
  interval_cases i <;> simp

@[simp] theorem fFunct3_encS (imm : BitVec 12) (rs2 rs1 : BitVec 5) (funct3 : BitVec 3) (op : BitVec 7) :
    fFunct3 (encS imm rs2 rs1 funct3 op) = funct3 := by
  apply BitVec.eq_of_getLsbD_eq
  intro i hi
  simp only [fFunct3, encS, BitVec.getLsbD_extractLsb', BitVec.getLsbD_append]
  interval_cases i <;> simp

@[simp] theorem fRs1_encS (imm : BitVec 12) (rs2 rs1 : BitVec 5) (funct3 : BitVec 3) (op : BitVec 7) :
    fRs1 (encS imm rs2 rs1 funct3 op) = rs1 := by
  apply BitVec.eq_of_getLsbD_eq
  intro i hi
  simp only [fRs1, encS, BitVec.getLsbD_extractLsb', BitVec.getLsbD_append]
  interval_cases i <;> simp

@[simp] theorem fRs2_encS (imm : BitVec 12) (rs2 rs1 : BitVec 5) (funct3 : BitVec 3) (op : BitVec 7) :
    fRs2 (encS imm rs2 rs1 funct3 op) = rs2 := by
  apply BitVec.eq_of_getLsbD_eq
  intro i hi
  simp only [fRs2, encS, BitVec.getLsbD_extractLsb', BitVec.getLsbD_append]
  interval_cases i <;> simp

@[simp] theorem fImmS_encS (imm : BitVec 12) (rs2 rs1 : BitVec 5) (funct3 : BitVec 3) (op : BitVec 7) :
    fImmS (encS imm rs2 rs1 funct3 op) = imm := by
  apply BitVec.eq_of_getLsbD_eq
  intro i hi
  simp only [fImmS, encS, BitVec.getLsbD_extractLsb', BitVec.getLsbD_append]
  interval_cases i <;> simp

@[simp] theorem low2_encS (imm : BitVec 12) (rs2 rs1 : BitVec 5) (funct3 : BitVec 3) (op : BitVec 7) :
    (encS imm rs2 rs1 funct3 op).extractLsb' 0 2 = op.extractLsb' 0 2 := by
  apply BitVec.eq_of_getLsbD_eq
  intro i hi
  simp only [encS, BitVec.getLsbD_extractLsb', BitVec.getLsbD_append]
  interval_cases i <;> simp

/-! ### `encB` -/

@[simp] theorem fOpcode_encB (imm : BitVec 12) (rs2 rs1 : BitVec 5) (funct3 : BitVec 3) (op : BitVec 7) :
    fOpcode (encB imm rs2 rs1 funct3 op) = op := by
  apply BitVec.eq_of_getLsbD_eq
  intro i hi
  simp only [fOpcode, encB, BitVec.getLsbD_extractLsb', BitVec.getLsbD_append]
  interval_cases i <;> simp

@[simp] theorem fFunct3_encB (imm : BitVec 12) (rs2 rs1 : BitVec 5) (funct3 : BitVec 3) (op : BitVec 7) :
    fFunct3 (encB imm rs2 rs1 funct3 op) = funct3 := by
  apply BitVec.eq_of_getLsbD_eq
  intro i hi
  simp only [fFunct3, encB, BitVec.getLsbD_extractLsb', BitVec.getLsbD_append]
  interval_cases i <;> simp

@[simp] theorem fRs1_encB (imm : BitVec 12) (rs2 rs1 : BitVec 5) (funct3 : BitVec 3) (op : BitVec 7) :
    fRs1 (encB imm rs2 rs1 funct3 op) = rs1 := by
  apply BitVec.eq_of_getLsbD_eq
  intro i hi
  simp only [fRs1, encB, BitVec.getLsbD_extractLsb', BitVec.getLsbD_append]
  interval_cases i <;> simp

@[simp] theorem fRs2_encB (imm : BitVec 12) (rs2 rs1 : BitVec 5) (funct3 : BitVec 3) (op : BitVec 7) :
    fRs2 (encB imm rs2 rs1 funct3 op) = rs2 := by
  apply BitVec.eq_of_getLsbD_eq
  intro i hi
  simp only [fRs2, encB, BitVec.getLsbD_extractLsb', BitVec.getLsbD_append]
  interval_cases i <;> simp

@[simp] theorem fImmB_encB (imm : BitVec 12) (rs2 rs1 : BitVec 5) (funct3 : BitVec 3) (op : BitVec 7) :
    fImmB (encB imm rs2 rs1 funct3 op) = imm := by
  apply BitVec.eq_of_getLsbD_eq
  intro i hi
  simp only [fImmB, encB, BitVec.getLsbD_extractLsb', BitVec.getLsbD_append]
  interval_cases i <;> simp

@[simp] theorem low2_encB (imm : BitVec 12) (rs2 rs1 : BitVec 5) (funct3 : BitVec 3) (op : BitVec 7) :
    (encB imm rs2 rs1 funct3 op).extractLsb' 0 2 = op.extractLsb' 0 2 := by
  apply BitVec.eq_of_getLsbD_eq
  intro i hi
  simp only [encB, BitVec.getLsbD_extractLsb', BitVec.getLsbD_append]
  interval_cases i <;> simp

/-! ### `encU` -/

@[simp] theorem fOpcode_encU (imm : BitVec 20) (rd : BitVec 5) (op : BitVec 7) :
    fOpcode (encU imm rd op) = op := by
  apply BitVec.eq_of_getLsbD_eq
  intro i hi
  simp only [fOpcode, encU, BitVec.getLsbD_extractLsb', BitVec.getLsbD_append]
  interval_cases i <;> simp

@[simp] theorem fRd_encU (imm : BitVec 20) (rd : BitVec 5) (op : BitVec 7) :
    fRd (encU imm rd op) = rd := by
  apply BitVec.eq_of_getLsbD_eq
  intro i hi
  simp only [fRd, encU, BitVec.getLsbD_extractLsb', BitVec.getLsbD_append]
  interval_cases i <;> simp

@[simp] theorem fImmU_encU (imm : BitVec 20) (rd : BitVec 5) (op : BitVec 7) :
    fImmU (encU imm rd op) = imm := by
  apply BitVec.eq_of_getLsbD_eq
  intro i hi
  simp only [fImmU, encU, BitVec.getLsbD_extractLsb', BitVec.getLsbD_append]
  interval_cases i <;> simp

@[simp] theorem low2_encU (imm : BitVec 20) (rd : BitVec 5) (op : BitVec 7) :
    (encU imm rd op).extractLsb' 0 2 = op.extractLsb' 0 2 := by
  apply BitVec.eq_of_getLsbD_eq
  intro i hi
  simp only [encU, BitVec.getLsbD_extractLsb', BitVec.getLsbD_append]
  interval_cases i <;> simp

/-! ### `encJ` -/

@[simp] theorem fOpcode_encJ (imm : BitVec 20) (rd : BitVec 5) (op : BitVec 7) :
    fOpcode (encJ imm rd op) = op := by
  apply BitVec.eq_of_getLsbD_eq
  intro i hi
  simp only [fOpcode, encJ, BitVec.getLsbD_extractLsb', BitVec.getLsbD_append]
  interval_cases i <;> simp

@[simp] theorem fRd_encJ (imm : BitVec 20) (rd : BitVec 5) (op : BitVec 7) :
    fRd (encJ imm rd op) = rd := by
  apply BitVec.eq_of_getLsbD_eq
  intro i hi
  simp only [fRd, encJ, BitVec.getLsbD_extractLsb', BitVec.getLsbD_append]
  interval_cases i <;> simp

@[simp] theorem fImmJ_encJ (imm : BitVec 20) (rd : BitVec 5) (op : BitVec 7) :
    fImmJ (encJ imm rd op) = imm := by
  apply BitVec.eq_of_getLsbD_eq
  intro i hi
  simp only [fImmJ, encJ, BitVec.getLsbD_extractLsb', BitVec.getLsbD_append]
  interval_cases i <;> simp

@[simp] theorem low2_encJ (imm : BitVec 20) (rd : BitVec 5) (op : BitVec 7) :
    (encJ imm rd op).extractLsb' 0 2 = op.extractLsb' 0 2 := by
  apply BitVec.eq_of_getLsbD_eq
  intro i hi
  simp only [encJ, BitVec.getLsbD_extractLsb', BitVec.getLsbD_append]
  interval_cases i <;> simp

/-! ### `encSh` -/

@[simp] theorem fOpcode_encSh (funct6 shamt : BitVec 6) (rs1 : BitVec 5) (funct3 : BitVec 3) (rd : BitVec 5) (op : BitVec 7) :
    fOpcode (encSh funct6 shamt rs1 funct3 rd op) = op := by
  apply BitVec.eq_of_getLsbD_eq
  intro i hi
  simp only [fOpcode, encSh, BitVec.getLsbD_extractLsb', BitVec.getLsbD_append]
  interval_cases i <;> simp

@[simp] theorem fRd_encSh (funct6 shamt : BitVec 6) (rs1 : BitVec 5) (funct3 : BitVec 3) (rd : BitVec 5) (op : BitVec 7) :
    fRd (encSh funct6 shamt rs1 funct3 rd op) = rd := by
  apply BitVec.eq_of_getLsbD_eq
  intro i hi
  simp only [fRd, encSh, BitVec.getLsbD_extractLsb', BitVec.getLsbD_append]
  interval_cases i <;> simp

@[simp] theorem fFunct3_encSh (funct6 shamt : BitVec 6) (rs1 : BitVec 5) (funct3 : BitVec 3) (rd : BitVec 5) (op : BitVec 7) :
    fFunct3 (encSh funct6 shamt rs1 funct3 rd op) = funct3 := by
  apply BitVec.eq_of_getLsbD_eq
  intro i hi
  simp only [fFunct3, encSh, BitVec.getLsbD_extractLsb', BitVec.getLsbD_append]
  interval_cases i <;> simp

@[simp] theorem fRs1_encSh (funct6 shamt : BitVec 6) (rs1 : BitVec 5) (funct3 : BitVec 3) (rd : BitVec 5) (op : BitVec 7) :
    fRs1 (encSh funct6 shamt rs1 funct3 rd op) = rs1 := by
  apply BitVec.eq_of_getLsbD_eq
  intro i hi
  simp only [fRs1, encSh, BitVec.getLsbD_extractLsb', BitVec.getLsbD_append]
  interval_cases i <;> simp

@[simp] theorem fShamt_encSh (funct6 shamt : BitVec 6) (rs1 : BitVec 5) (funct3 : BitVec 3) (rd : BitVec 5) (op : BitVec 7) :
    fShamt (encSh funct6 shamt rs1 funct3 rd op) = shamt := by
  apply BitVec.eq_of_getLsbD_eq
  intro i hi
  simp only [fShamt, encSh, BitVec.getLsbD_extractLsb', BitVec.getLsbD_append]
  interval_cases i <;> simp

@[simp] theorem fFunct6_encSh (funct6 shamt : BitVec 6) (rs1 : BitVec 5) (funct3 : BitVec 3) (rd : BitVec 5) (op : BitVec 7) :
    fFunct6 (encSh funct6 shamt rs1 funct3 rd op) = funct6 := by
  apply BitVec.eq_of_getLsbD_eq
  intro i hi
  simp only [fFunct6, encSh, BitVec.getLsbD_extractLsb', BitVec.getLsbD_append]
  interval_cases i <;> simp

@[simp] theorem low2_encSh (funct6 shamt : BitVec 6) (rs1 : BitVec 5) (funct3 : BitVec 3) (rd : BitVec 5) (op : BitVec 7) :
    (encSh funct6 shamt rs1 funct3 rd op).extractLsb' 0 2 = op.extractLsb' 0 2 := by
  apply BitVec.eq_of_getLsbD_eq
  intro i hi
  simp only [encSh, BitVec.getLsbD_extractLsb', BitVec.getLsbD_append]
  interval_cases i <;> simp

/-! ### `encAmo` -/

@[simp] theorem fOpcode_encAmo (funct5 : BitVec 5) (aq rl : BitVec 1) (rs2 rs1 : BitVec 5) (funct3 : BitVec 3) (rd : BitVec 5) (op : BitVec 7) :
    fOpcode (encAmo funct5 aq rl rs2 rs1 funct3 rd op) = op := by
  apply BitVec.eq_of_getLsbD_eq
  intro i hi
  simp only [fOpcode, encAmo, BitVec.getLsbD_extractLsb', BitVec.getLsbD_append]
  interval_cases i <;> simp

@[simp] theorem fRd_encAmo (funct5 : BitVec 5) (aq rl : BitVec 1) (rs2 rs1 : BitVec 5) (funct3 : BitVec 3) (rd : BitVec 5) (op : BitVec 7) :
    fRd (encAmo funct5 aq rl rs2 rs1 funct3 rd op) = rd := by
  apply BitVec.eq_of_getLsbD_eq
  intro i hi
  simp only [fRd, encAmo, BitVec.getLsbD_extractLsb', BitVec.getLsbD_append]
  interval_cases i <;> simp

@[simp] theorem fFunct3_encAmo (funct5 : BitVec 5) (aq rl : BitVec 1) (rs2 rs1 : BitVec 5) (funct3 : BitVec 3) (rd : BitVec 5) (op : BitVec 7) :
    fFunct3 (encAmo funct5 aq rl rs2 rs1 funct3 rd op) = funct3 := by
  apply BitVec.eq_of_getLsbD_eq
  intro i hi
  simp only [fFunct3, encAmo, BitVec.getLsbD_extractLsb', BitVec.getLsbD_append]
  interval_cases i <;> simp

@[simp] theorem fRs1_encAmo (funct5 : BitVec 5) (aq rl : BitVec 1) (rs2 rs1 : BitVec 5) (funct3 : BitVec 3) (rd : BitVec 5) (op : BitVec 7) :
    fRs1 (encAmo funct5 aq rl rs2 rs1 funct3 rd op) = rs1 := by
  apply BitVec.eq_of_getLsbD_eq
  intro i hi
  simp only [fRs1, encAmo, BitVec.getLsbD_extractLsb', BitVec.getLsbD_append]
  interval_cases i <;> simp

@[simp] theorem fRs2_encAmo (funct5 : BitVec 5) (aq rl : BitVec 1) (rs2 rs1 : BitVec 5) (funct3 : BitVec 3) (rd : BitVec 5) (op : BitVec 7) :
    fRs2 (encAmo funct5 aq rl rs2 rs1 funct3 rd op) = rs2 := by
  apply BitVec.eq_of_getLsbD_eq
  intro i hi
  simp only [fRs2, encAmo, BitVec.getLsbD_extractLsb', BitVec.getLsbD_append]
  interval_cases i <;> simp

@[simp] theorem fFunct5_encAmo (funct5 : BitVec 5) (aq rl : BitVec 1) (rs2 rs1 : BitVec 5) (funct3 : BitVec 3) (rd : BitVec 5) (op : BitVec 7) :
    fFunct5 (encAmo funct5 aq rl rs2 rs1 funct3 rd op) = funct5 := by
  apply BitVec.eq_of_getLsbD_eq
  intro i hi
  simp only [fFunct5, encAmo, BitVec.getLsbD_extractLsb', BitVec.getLsbD_append]
  interval_cases i <;> simp

@[simp] theorem fAq_encAmo (funct5 : BitVec 5) (aq rl : BitVec 1) (rs2 rs1 : BitVec 5) (funct3 : BitVec 3) (rd : BitVec 5) (op : BitVec 7) :
    fAq (encAmo funct5 aq rl rs2 rs1 funct3 rd op) = aq := by
  apply BitVec.eq_of_getLsbD_eq
  intro i hi
  simp only [fAq, encAmo, BitVec.getLsbD_extractLsb', BitVec.getLsbD_append]
  interval_cases i
  simp

@[simp] theorem fRl_encAmo (funct5 : BitVec 5) (aq rl : BitVec 1) (rs2 rs1 : BitVec 5) (funct3 : BitVec 3) (rd : BitVec 5) (op : BitVec 7) :
    fRl (encAmo funct5 aq rl rs2 rs1 funct3 rd op) = rl := by
  apply BitVec.eq_of_getLsbD_eq
  intro i hi
  simp only [fRl, encAmo, BitVec.getLsbD_extractLsb', BitVec.getLsbD_append]
  interval_cases i
  simp

@[simp] theorem low2_encAmo (funct5 : BitVec 5) (aq rl : BitVec 1) (rs2 rs1 : BitVec 5) (funct3 : BitVec 3) (rd : BitVec 5) (op : BitVec 7) :
    (encAmo funct5 aq rl rs2 rs1 funct3 rd op).extractLsb' 0 2 = op.extractLsb' 0 2 := by
  apply BitVec.eq_of_getLsbD_eq
  intro i hi
  simp only [encAmo, BitVec.getLsbD_extractLsb', BitVec.getLsbD_append]
  interval_cases i <;> simp

/-! ### `encR4` -/

@[simp] theorem fOpcode_encR4 (rs3 : BitVec 5) (fmt : BitVec 2) (rs2 rs1 : BitVec 5) (rm : BitVec 3) (rd : BitVec 5) (op : BitVec 7) :
    fOpcode (encR4 rs3 fmt rs2 rs1 rm rd op) = op := by
  apply BitVec.eq_of_getLsbD_eq
  intro i hi
  simp only [fOpcode, encR4, BitVec.getLsbD_extractLsb', BitVec.getLsbD_append]
  interval_cases i <;> simp

@[simp] theorem fRd_encR4 (rs3 : BitVec 5) (fmt : BitVec 2) (rs2 rs1 : BitVec 5) (rm : BitVec 3) (rd : BitVec 5) (op : BitVec 7) :
    fRd (encR4 rs3 fmt rs2 rs1 rm rd op) = rd := by
  apply BitVec.eq_of_getLsbD_eq
  intro i hi
  simp only [fRd, encR4, BitVec.getLsbD_extractLsb', BitVec.getLsbD_append]
  interval_cases i <;> simp

@[simp] theorem fFunct3_encR4 (rs3 : BitVec 5) (fmt : BitVec 2) (rs2 rs1 : BitVec 5) (rm : BitVec 3) (rd : BitVec 5) (op : BitVec 7) :
    fFunct3 (encR4 rs3 fmt rs2 rs1 rm rd op) = rm := by
  apply BitVec.eq_of_getLsbD_eq
  intro i hi
  simp only [fFunct3, encR4, BitVec.getLsbD_extractLsb', BitVec.getLsbD_append]
  interval_cases i <;> simp

@[simp] theorem fRs1_encR4 (rs3 : BitVec 5) (fmt : BitVec 2) (rs2 rs1 : BitVec 5) (rm : BitVec 3) (rd : BitVec 5) (op : BitVec 7) :
    fRs1 (encR4 rs3 fmt rs2 rs1 rm rd op) = rs1 := by
  apply BitVec.eq_of_getLsbD_eq
  intro i hi
  simp only [fRs1, encR4, BitVec.getLsbD_extractLsb', BitVec.getLsbD_append]
  interval_cases i <;> simp

@[simp] theorem fRs2_encR4 (rs3 : BitVec 5) (fmt : BitVec 2) (rs2 rs1 : BitVec 5) (rm : BitVec 3) (rd : BitVec 5) (op : BitVec 7) :
    fRs2 (encR4 rs3 fmt rs2 rs1 rm rd op) = rs2 := by
  apply BitVec.eq_of_getLsbD_eq
  intro i hi
  simp only [fRs2, encR4, BitVec.getLsbD_extractLsb', BitVec.getLsbD_append]
  interval_cases i <;> simp

@[simp] theorem fFunct5_encR4 (rs3 : BitVec 5) (fmt : BitVec 2) (rs2 rs1 : BitVec 5) (rm : BitVec 3) (rd : BitVec 5) (op : BitVec 7) :
    fFunct5 (encR4 rs3 fmt rs2 rs1 rm rd op) = rs3 := by
  apply BitVec.eq_of_getLsbD_eq
  intro i hi
  simp only [fFunct5, encR4, BitVec.getLsbD_extractLsb', BitVec.getLsbD_append]
  interval_cases i <;> simp

@[simp] theorem fFmt_encR4 (rs3 : BitVec 5) (fmt : BitVec 2) (rs2 rs1 : BitVec 5) (rm : BitVec 3) (rd : BitVec 5) (op : BitVec 7) :
    fFmt (encR4 rs3 fmt rs2 rs1 rm rd op) = fmt := by
  apply BitVec.eq_of_getLsbD_eq
  intro i hi
  simp only [fFmt, encR4, BitVec.getLsbD_extractLsb', BitVec.getLsbD_append]
  interval_cases i <;> simp

@[simp] theorem low2_encR4 (rs3 : BitVec 5) (fmt : BitVec 2) (rs2 rs1 : BitVec 5) (rm : BitVec 3) (rd : BitVec 5) (op : BitVec 7) :
    (encR4 rs3 fmt rs2 rs1 rm rd op).extractLsb' 0 2 = op.extractLsb' 0 2 := by
  apply BitVec.eq_of_getLsbD_eq
  intro i hi
  simp only [encR4, BitVec.getLsbD_extractLsb', BitVec.getLsbD_append]
  interval_cases i <;> simp

/-! ### `encCI` -/

@[simp] theorem cFunct3_encCI (funct3 : BitVec 3) (imm : BitVec 6) (rd : BitVec 5) (q : BitVec 2) :
    cFunct3 (encCI funct3 imm rd q) = funct3 := by
  apply BitVec.eq_of_getLsbD_eq
  intro i hi
  simp only [cFunct3, encCI, BitVec.getLsbD_extractLsb', BitVec.getLsbD_append]
  interval_cases i <;> simp

@[simp] theorem cRd_encCI (funct3 : BitVec 3) (imm : BitVec 6) (rd : BitVec 5) (q : BitVec 2) :
    cRd (encCI funct3 imm rd q) = rd := by
  apply BitVec.eq_of_getLsbD_eq
  intro i hi
  simp only [cRd, encCI, BitVec.getLsbD_extractLsb', BitVec.getLsbD_append]
  interval_cases i <;> simp

@[simp] theorem cImm6_encCI (funct3 : BitVec 3) (imm : BitVec 6) (rd : BitVec 5) (q : BitVec 2) :
    cImm6 (encCI funct3 imm rd q) = imm := by
  apply BitVec.eq_of_getLsbD_eq
  intro i hi
  simp only [cImm6, encCI, BitVec.getLsbD_extractLsb', BitVec.getLsbD_append]
  interval_cases i <;> simp

@[simp] theorem cQuadrant_encCI (funct3 : BitVec 3) (imm : BitVec 6) (rd : BitVec 5) (q : BitVec 2) :
    cQuadrant (encCI funct3 imm rd q) = q := by
  apply BitVec.eq_of_getLsbD_eq
  intro i hi
  simp only [cQuadrant, encCI, BitVec.getLsbD_extractLsb', BitVec.getLsbD_append]
  interval_cases i <;> simp

/-! ### `encCIW` -/

@[simp] theorem cFunct3_encCIW (funct3 : BitVec 3) (imm : BitVec 8) (rd : BitVec 3) (q : BitVec 2) :
    cFunct3 (encCIW funct3 imm rd q) = funct3 := by
  apply BitVec.eq_of_getLsbD_eq
  intro i hi
  simp only [cFunct3, encCIW, BitVec.getLsbD_extractLsb', BitVec.getLsbD_append]
  interval_cases i <;> simp

@[simp] theorem cLow3_encCIW (funct3 : BitVec 3) (imm : BitVec 8) (rd : BitVec 3) (q : BitVec 2) :
    cLow3 (encCIW funct3 imm rd q) = rd := by
  apply BitVec.eq_of_getLsbD_eq
  intro i hi
  simp only [cLow3, encCIW, BitVec.getLsbD_extractLsb', BitVec.getLsbD_append]
  interval_cases i <;> simp

@[simp] theorem cImm4spn_encCIW (funct3 : BitVec 3) (imm : BitVec 8) (rd : BitVec 3) (q : BitVec 2) :
    cImm4spn (encCIW funct3 imm rd q) = imm := by
  apply BitVec.eq_of_getLsbD_eq
  intro i hi
  simp only [cImm4spn, encCIW, BitVec.getLsbD_extractLsb', BitVec.getLsbD_append]
  interval_cases i <;> simp

@[simp] theorem cQuadrant_encCIW (funct3 : BitVec 3) (imm : BitVec 8) (rd : BitVec 3) (q : BitVec 2) :
    cQuadrant (encCIW funct3 imm rd q) = q := by
  apply BitVec.eq_of_getLsbD_eq
  intro i hi
  simp only [cQuadrant, encCIW, BitVec.getLsbD_extractLsb', BitVec.getLsbD_append]
  interval_cases i <;> simp

/-! ### `encCLW` -/

@[simp] theorem cFunct3_encCLW (funct3 : BitVec 3) (imm : BitVec 5) (rs1 low : BitVec 3) (q : BitVec 2) :
    cFunct3 (encCLW funct3 imm rs1 low q) = funct3 := by
  apply BitVec.eq_of_getLsbD_eq
  intro i hi
  simp only [cFunct3, encCLW, BitVec.getLsbD_extractLsb', BitVec.getLsbD_append]
  interval_cases i <;> simp

@[simp] theorem cHigh3_encCLW (funct3 : BitVec 3) (imm : BitVec 5) (rs1 low : BitVec 3) (q : BitVec 2) :
    cHigh3 (encCLW funct3 imm rs1 low q) = rs1 := by
  apply BitVec.eq_of_getLsbD_eq
  intro i hi
  simp only [cHigh3, encCLW, BitVec.getLsbD_extractLsb', BitVec.getLsbD_append]
  interval_cases i <;> simp

@[simp] theorem cLow3_encCLW (funct3 : BitVec 3) (imm : BitVec 5) (rs1 low : BitVec 3) (q : BitVec 2) :
    cLow3 (encCLW funct3 imm rs1 low q) = low := by
  apply BitVec.eq_of_getLsbD_eq
  intro i hi
  simp only [cLow3, encCLW, BitVec.getLsbD_extractLsb', BitVec.getLsbD_append]
  interval_cases i <;> simp

@[simp] theorem cImmLw_encCLW (funct3 : BitVec 3) (imm : BitVec 5) (rs1 low : BitVec 3) (q : BitVec 2) :
    cImmLw (encCLW funct3 imm rs1 low q) = imm := by
  apply BitVec.eq_of_getLsbD_eq
  intro i hi
  simp only [cImmLw, encCLW, BitVec.getLsbD_extractLsb', BitVec.getLsbD_append]
  interval_cases i <;> simp

@[simp] theorem cQuadrant_encCLW (funct3 : BitVec 3) (imm : BitVec 5) (rs1 low : BitVec 3) (q : BitVec 2) :
    cQuadrant (encCLW funct3 imm rs1 low q) = q := by
  apply BitVec.eq_of_getLsbD_eq
  intro i hi
  simp only [cQuadrant, encCLW, BitVec.getLsbD_extractLsb', BitVec.getLsbD_append]
  interval_cases i <;> simp

/-! ### `encCLD` -/

@[simp] theorem cFunct3_encCLD (funct3 : BitVec 3) (imm : BitVec 5) (rs1 low : BitVec 3) (q : BitVec 2) :
    cFunct3 (encCLD funct3 imm rs1 low q) = funct3 := by
  apply BitVec.eq_of_getLsbD_eq
  intro i hi
  simp only [cFunct3, encCLD, BitVec.getLsbD_extractLsb', BitVec.getLsbD_append]
  interval_cases i <;> simp

@[simp] theorem cHigh3_encCLD (funct3 : BitVec 3) (imm : BitVec 5) (rs1 low : BitVec 3) (q : BitVec 2) :
    cHigh3 (encCLD funct3 imm rs1 low q) = rs1 := by
  apply BitVec.eq_of_getLsbD_eq
  intro i hi
  simp only [cHigh3, encCLD, BitVec.getLsbD_extractLsb', BitVec.getLsbD_append]
  interval_cases i <;> simp

@[simp] theorem cLow3_encCLD (funct3 : BitVec 3) (imm : BitVec 5) (rs1 low : BitVec 3) (q : BitVec 2) :
    cLow3 (encCLD funct3 imm rs1 low q) = low := by
  apply BitVec.eq_of_getLsbD_eq
  intro i hi
  simp only [cLow3, encCLD, BitVec.getLsbD_extractLsb', BitVec.getLsbD_append]
  interval_cases i <;> simp

@[simp] theorem cImmLd_encCLD (funct3 : BitVec 3) (imm : BitVec 5) (rs1 low : BitVec 3) (q : BitVec 2) :
    cImmLd (encCLD funct3 imm rs1 low q) = imm := by
  apply BitVec.eq_of_getLsbD_eq
  intro i hi
  simp only [cImmLd, encCLD, BitVec.getLsbD_extractLsb', BitVec.getLsbD_append]
  interval_cases i <;> simp

@[simp] theorem cQuadrant_encCLD (funct3 : BitVec 3) (imm : BitVec 5) (rs1 low : BitVec 3) (q : BitVec 2) :
    cQuadrant (encCLD funct3 imm rs1 low q) = q := by
  apply BitVec.eq_of_getLsbD_eq
  intro i hi
  simp only [cQuadrant, encCLD, BitVec.getLsbD_extractLsb', BitVec.getLsbD_append]
  interval_cases i <;> simp

/-! ### `encCJ` -/

@[simp] theorem cFunct3_encCJ (funct3 : BitVec 3) (imm : BitVec 11) (q : BitVec 2) :
    cFunct3 (encCJ funct3 imm q) = funct3 := by
  apply BitVec.eq_of_getLsbD_eq
  intro i hi
  simp only [cFunct3, encCJ, BitVec.getLsbD_extractLsb', BitVec.getLsbD_append]
  interval_cases i <;> simp

@[simp] theorem cImmJ_encCJ (funct3 : BitVec 3) (imm : BitVec 11) (q : BitVec 2) :
    cImmJ (encCJ funct3 imm q) = imm := by
  apply BitVec.eq_of_getLsbD_eq
  intro i hi
  simp only [cImmJ, encCJ, BitVec.getLsbD_extractLsb', BitVec.getLsbD_append]
  interval_cases i <;> simp

@[simp] theorem cQuadrant_encCJ (funct3 : BitVec 3) (imm : BitVec 11) (q : BitVec 2) :
    cQuadrant (encCJ funct3 imm q) = q := by
  apply BitVec.eq_of_getLsbD_eq
  intro i hi
  simp only [cQuadrant, encCJ, BitVec.getLsbD_extractLsb', BitVec.getLsbD_append]
  interval_cases i <;> simp

/-! ### `encC16SP` -/

@[simp] theorem cFunct3_encC16SP (funct3 : BitVec 3) (imm : BitVec 6) (q : BitVec 2) :
    cFunct3 (encC16SP funct3 imm q) = funct3 := by
  apply BitVec.eq_of_getLsbD_eq
  intro i hi
  simp only [cFunct3, encC16SP, BitVec.getLsbD_extractLsb', BitVec.getLsbD_append]
  interval_cases i <;> simp

@[simp] theorem cImm16sp_encC16SP (funct3 : BitVec 3) (imm : BitVec 6) (q : BitVec 2) :
    cImm16sp (encC16SP funct3 imm q) = imm := by
  apply BitVec.eq_of_getLsbD_eq
  intro i hi
  simp only [cImm16sp, encC16SP, BitVec.getLsbD_extractLsb', BitVec.getLsbD_append]
  interval_cases i <;> simp

@[simp] theorem cRd_encC16SP (funct3 : BitVec 3) (imm : BitVec 6) (q : BitVec 2) :
    cRd (encC16SP funct3 imm q) = 2#5 := by
  apply BitVec.eq_of_getLsbD_eq
  intro i hi
  simp only [cRd, encC16SP, BitVec.getLsbD_extractLsb', BitVec.getLsbD_append]
  interval_cases i <;> simp

@[simp] theorem cQuadrant_encC16SP (funct3 : BitVec 3) (imm : BitVec 6) (q : BitVec 2) :
    cQuadrant (encC16SP funct3 imm q) = q := by
  apply BitVec.eq_of_getLsbD_eq
  intro i hi
  simp only [cQuadrant, encC16SP, BitVec.getLsbD_extractLsb', BitVec.getLsbD_append]
  interval_cases i <;> simp

/-! ### `encCB` -/

@[simp] theorem cFunct3_encCB (funct3 : BitVec 3) (funct2 : BitVec 2) (imm : BitVec 6) (rd : BitVec 3) (q : BitVec 2) :
    cFunct3 (encCB funct3 funct2 imm rd q) = funct3 := by
  apply BitVec.eq_of_getLsbD_eq
  intro i hi
  simp only [cFunct3, encCB, BitVec.getLsbD_extractLsb', BitVec.getLsbD_append]
  interval_cases i <;> simp

@[simp] theorem cHigh3_encCB (funct3 : BitVec 3) (funct2 : BitVec 2) (imm : BitVec 6) (rd : BitVec 3) (q : BitVec 2) :
    cHigh3 (encCB funct3 funct2 imm rd q) = rd := by
  apply BitVec.eq_of_getLsbD_eq
  intro i hi
  simp only [cHigh3, encCB, BitVec.getLsbD_extractLsb', BitVec.getLsbD_append]
  interval_cases i <;> simp

@[simp] theorem cImm6_encCB (funct3 : BitVec 3) (funct2 : BitVec 2) (imm : BitVec 6) (rd : BitVec 3) (q : BitVec 2) :
    cImm6 (encCB funct3 funct2 imm rd q) = imm := by
  apply BitVec.eq_of_getLsbD_eq
  intro i hi
  simp only [cImm6, encCB, BitVec.getLsbD_extractLsb', BitVec.getLsbD_append]
  interval_cases i <;> simp

@[simp] theorem cQuadrant_encCB (funct3 : BitVec 3) (funct2 : BitVec 2) (imm : BitVec 6) (rd : BitVec 3) (q : BitVec 2) :
    cQuadrant (encCB funct3 funct2 imm rd q) = q := by
  apply BitVec.eq_of_getLsbD_eq
  intro i hi
  simp only [cQuadrant, encCB, BitVec.getLsbD_extractLsb', BitVec.getLsbD_append]
  interval_cases i <;> simp

/-! ### `encCA` -/

@[simp] theorem cHigh3_encCA (funct6 : BitVec 6) (rd : BitVec 3) (funct2 : BitVec 2) (rs2 : BitVec 3) (q : BitVec 2) :
    cHigh3 (encCA funct6 rd funct2 rs2 q) = rd := by
  apply BitVec.eq_of_getLsbD_eq
  intro i hi
  simp only [cHigh3, encCA, BitVec.getLsbD_extractLsb', BitVec.getLsbD_append]
  interval_cases i <;> simp

@[simp] theorem cLow3_encCA (funct6 : BitVec 6) (rd : BitVec 3) (funct2 : BitVec 2) (rs2 : BitVec 3) (q : BitVec 2) :
    cLow3 (encCA funct6 rd funct2 rs2 q) = rs2 := by
  apply BitVec.eq_of_getLsbD_eq
  intro i hi
  simp only [cLow3, encCA, BitVec.getLsbD_extractLsb', BitVec.getLsbD_append]
  interval_cases i <;> simp

@[simp] theorem cQuadrant_encCA (funct6 : BitVec 6) (rd : BitVec 3) (funct2 : BitVec 2) (rs2 : BitVec 3) (q : BitVec 2) :
    cQuadrant (encCA funct6 rd funct2 rs2 q) = q := by
  apply BitVec.eq_of_getLsbD_eq
  intro i hi
  simp only [cQuadrant, encCA, BitVec.getLsbD_extractLsb', BitVec.getLsbD_append]
  interval_cases i <;> simp

/-! ### `encCBr` -/

@[simp] theorem cFunct3_encCBr (funct3 : BitVec 3) (imm : BitVec 8) (rs1 : BitVec 3) (q : BitVec 2) :
    cFunct3 (encCBr funct3 imm rs1 q) = funct3 := by
  apply BitVec.eq_of_getLsbD_eq
  intro i hi
  simp only [cFunct3, encCBr, BitVec.getLsbD_extractLsb', BitVec.getLsbD_append]
  interval_cases i <;> simp

@[simp] theorem cHigh3_encCBr (funct3 : BitVec 3) (imm : BitVec 8) (rs1 : BitVec 3) (q : BitVec 2) :
    cHigh3 (encCBr funct3 imm rs1 q) = rs1 := by
  apply BitVec.eq_of_getLsbD_eq
  intro i hi
  simp only [cHigh3, encCBr, BitVec.getLsbD_extractLsb', BitVec.getLsbD_append]
  interval_cases i <;> simp

@[simp] theorem cImmB_encCBr (funct3 : BitVec 3) (imm : BitVec 8) (rs1 : BitVec 3) (q : BitVec 2) :
    cImmB (encCBr funct3 imm rs1 q) = imm := by
  apply BitVec.eq_of_getLsbD_eq
  intro i hi
  simp only [cImmB, encCBr, BitVec.getLsbD_extractLsb', BitVec.getLsbD_append]
  interval_cases i <;> simp

@[simp] theorem cQuadrant_encCBr (funct3 : BitVec 3) (imm : BitVec 8) (rs1 : BitVec 3) (q : BitVec 2) :
    cQuadrant (encCBr funct3 imm rs1 q) = q := by
  apply BitVec.eq_of_getLsbD_eq
  intro i hi
  simp only [cQuadrant, encCBr, BitVec.getLsbD_extractLsb', BitVec.getLsbD_append]
  interval_cases i <;> simp

/-! ### `encCLDSP` -/

@[simp] theorem cFunct3_encCLDSP (funct3 : BitVec 3) (imm : BitVec 6) (rd : BitVec 5) (q : BitVec 2) :
    cFunct3 (encCLDSP funct3 imm rd q) = funct3 := by
  apply BitVec.eq_of_getLsbD_eq
  intro i hi
  simp only [cFunct3, encCLDSP, BitVec.getLsbD_extractLsb', BitVec.getLsbD_append]
  interval_cases i <;> simp

@[simp] theorem cRd_encCLDSP (funct3 : BitVec 3) (imm : BitVec 6) (rd : BitVec 5) (q : BitVec 2) :
    cRd (encCLDSP funct3 imm rd q) = rd := by
  apply BitVec.eq_of_getLsbD_eq
  intro i hi
  simp only [cRd, encCLDSP, BitVec.getLsbD_extractLsb', BitVec.getLsbD_append]
  interval_cases i <;> simp

@[simp] theorem cImmLdsp_encCLDSP (funct3 : BitVec 3) (imm : BitVec 6) (rd : BitVec 5) (q : BitVec 2) :
    cImmLdsp (encCLDSP funct3 imm rd q) = imm := by
  apply BitVec.eq_of_getLsbD_eq
  intro i hi
  simp only [cImmLdsp, encCLDSP, BitVec.getLsbD_extractLsb', BitVec.getLsbD_append]
  interval_cases i <;> simp

@[simp] theorem cQuadrant_encCLDSP (funct3 : BitVec 3) (imm : BitVec 6) (rd : BitVec 5) (q : BitVec 2) :
    cQuadrant (encCLDSP funct3 imm rd q) = q := by
  apply BitVec.eq_of_getLsbD_eq
  intro i hi
  simp only [cQuadrant, encCLDSP, BitVec.getLsbD_extractLsb', BitVec.getLsbD_append]
  interval_cases i <;> simp

/-! ### `encCLWSP` -/

@[simp] theorem cFunct3_encCLWSP (funct3 : BitVec 3) (imm : BitVec 6) (rd : BitVec 5) (q : BitVec 2) :
    cFunct3 (encCLWSP funct3 imm rd q) = funct3 := by
  apply BitVec.eq_of_getLsbD_eq
  intro i hi
  simp only [cFunct3, encCLWSP, BitVec.getLsbD_extractLsb', BitVec.getLsbD_append]
  interval_cases i <;> simp

@[simp] theorem cRd_encCLWSP (funct3 : BitVec 3) (imm : BitVec 6) (rd : BitVec 5) (q : BitVec 2) :
    cRd (encCLWSP funct3 imm rd q) = rd := by
  apply BitVec.eq_of_getLsbD_eq
  intro i hi
  simp only [cRd, encCLWSP, BitVec.getLsbD_extractLsb', BitVec.getLsbD_append]
  interval_cases i <;> simp

@[simp] theorem cImmLwsp_encCLWSP (funct3 : BitVec 3) (imm : BitVec 6) (rd : BitVec 5) (q : BitVec 2) :
    cImmLwsp (encCLWSP funct3 imm rd q) = imm := by
  apply BitVec.eq_of_getLsbD_eq
  intro i hi
  simp only [cImmLwsp, encCLWSP, BitVec.getLsbD_extractLsb', BitVec.getLsbD_append]
  interval_cases i <;> simp

@[simp] theorem cQuadrant_encCLWSP (funct3 : BitVec 3) (imm : BitVec 6) (rd : BitVec 5) (q : BitVec 2) :
    cQuadrant (encCLWSP funct3 imm rd q) = q := by
  apply BitVec.eq_of_getLsbD_eq
  intro i hi
  simp only [cQuadrant, encCLWSP, BitVec.getLsbD_extractLsb', BitVec.getLsbD_append]
  interval_cases i <;> simp

/-! ### `encCSDSP` -/

@[simp] theorem cFunct3_encCSDSP (funct3 : BitVec 3) (imm : BitVec 6) (rs2 : BitVec 5) (q : BitVec 2) :
    cFunct3 (encCSDSP funct3 imm rs2 q) = funct3 := by
  apply BitVec.eq_of_getLsbD_eq
  intro i hi
  simp only [cFunct3, encCSDSP, BitVec.getLsbD_extractLsb', BitVec.getLsbD_append]
  interval_cases i <;> simp

@[simp] theorem cRs2_encCSDSP (funct3 : BitVec 3) (imm : BitVec 6) (rs2 : BitVec 5) (q : BitVec 2) :
    cRs2 (encCSDSP funct3 imm rs2 q) = rs2 := by
  apply BitVec.eq_of_getLsbD_eq
  intro i hi
  simp only [cRs2, encCSDSP, BitVec.getLsbD_extractLsb', BitVec.getLsbD_append]
  interval_cases i <;> simp

@[simp] theorem cImmSdsp_encCSDSP (funct3 : BitVec 3) (imm : BitVec 6) (rs2 : BitVec 5) (q : BitVec 2) :
    cImmSdsp (encCSDSP funct3 imm rs2 q) = imm := by
  apply BitVec.eq_of_getLsbD_eq
  intro i hi
  simp only [cImmSdsp, encCSDSP, BitVec.getLsbD_extractLsb', BitVec.getLsbD_append]
  interval_cases i <;> simp

@[simp] theorem cQuadrant_encCSDSP (funct3 : BitVec 3) (imm : BitVec 6) (rs2 : BitVec 5) (q : BitVec 2) :
    cQuadrant (encCSDSP funct3 imm rs2 q) = q := by
  apply BitVec.eq_of_getLsbD_eq
  intro i hi
  simp only [cQuadrant, encCSDSP, BitVec.getLsbD_extractLsb', BitVec.getLsbD_append]
  interval_cases i <;> simp

/-! ### `encCSWSP` -/

@[simp] theorem cFunct3_encCSWSP (funct3 : BitVec 3) (imm : BitVec 6) (rs2 : BitVec 5) (q : BitVec 2) :
    cFunct3 (encCSWSP funct3 imm rs2 q) = funct3 := by
  apply BitVec.eq_of_getLsbD_eq
  intro i hi
  simp only [cFunct3, encCSWSP, BitVec.getLsbD_extractLsb', BitVec.getLsbD_append]
  interval_cases i <;> simp

@[simp] theorem cRs2_encCSWSP (funct3 : BitVec 3) (imm : BitVec 6) (rs2 : BitVec 5) (q : BitVec 2) :
    cRs2 (encCSWSP funct3 imm rs2 q) = rs2 := by
  apply BitVec.eq_of_getLsbD_eq
  intro i hi
  simp only [cRs2, encCSWSP, BitVec.getLsbD_extractLsb', BitVec.getLsbD_append]
  interval_cases i <;> simp

@[simp] theorem cImmSwsp_encCSWSP (funct3 : BitVec 3) (imm : BitVec 6) (rs2 : BitVec 5) (q : BitVec 2) :
    cImmSwsp (encCSWSP funct3 imm rs2 q) = imm := by
  apply BitVec.eq_of_getLsbD_eq
  intro i hi
  simp only [cImmSwsp, encCSWSP, BitVec.getLsbD_extractLsb', BitVec.getLsbD_append]
  interval_cases i <;> simp

@[simp] theorem cQuadrant_encCSWSP (funct3 : BitVec 3) (imm : BitVec 6) (rs2 : BitVec 5) (q : BitVec 2) :
    cQuadrant (encCSWSP funct3 imm rs2 q) = q := by
  apply BitVec.eq_of_getLsbD_eq
  intro i hi
  simp only [cQuadrant, encCSWSP, BitVec.getLsbD_extractLsb', BitVec.getLsbD_append]
  interval_cases i <;> simp

/-! ### `encCR` -/

@[simp] theorem cRd_encCR (funct4 : BitVec 4) (rd rs2 : BitVec 5) (q : BitVec 2) :
    cRd (encCR funct4 rd rs2 q) = rd := by
  apply BitVec.eq_of_getLsbD_eq
  intro i hi
  simp only [cRd, encCR, BitVec.getLsbD_extractLsb', BitVec.getLsbD_append]
  interval_cases i <;> simp

@[simp] theorem cRs2_encCR (funct4 : BitVec 4) (rd rs2 : BitVec 5) (q : BitVec 2) :
    cRs2 (encCR funct4 rd rs2 q) = rs2 := by
  apply BitVec.eq_of_getLsbD_eq
  intro i hi
  simp only [cRs2, encCR, BitVec.getLsbD_extractLsb', BitVec.getLsbD_append]
  interval_cases i <;> simp

@[simp] theorem cQuadrant_encCR (funct4 : BitVec 4) (rd rs2 : BitVec 5) (q : BitVec 2) :
    cQuadrant (encCR funct4 rd rs2 q) = q := by
  apply BitVec.eq_of_getLsbD_eq
  intro i hi
  simp only [cQuadrant, encCR, BitVec.getLsbD_extractLsb', BitVec.getLsbD_append]
  interval_cases i <;> simp

end Sys2Proof
end

