-- ==== Sys2Proof/Laws/Ops.lean ====
section
/-!
SUPPORT. Laws/Ops.lean: everything each shared operation of the meanings can answer, one lemma an operation.
-/

namespace Sys2Proof.Machine

/-- A physical write leaves the state alone (a device took it) or stores the bytes. -/
theorem physWrite_cases {pa n : Nat} {v : Word} {s t : State} (h : physWrite pa n v s = some t) :
    t = s ∨ t = { s with mem := writeBytes s.mem pa n v } := by
  unfold physWrite at h
  split at h
  · cases h
  · right; simpa using h.symm
  · left; split at h <;> simp_all

/-- A physical atomic operation leaves the state alone or stores the combined bytes. -/
theorem physAtomic_cases {kind : AtomicKind} {pa n : Nat} {v old : Word} {s t : State}
    (h : physAtomic kind pa n v s = some (old, t)) :
    t = s ∨ ∃ w, t = { s with mem := writeBytes s.mem pa n w } := by
  unfold physAtomic at h
  split at h
  · cases h
  · right; simp at h; exact ⟨_, h.2.symm⟩
  · left; simp at h; obtain ⟨_, _, _, h⟩ := h; exact h.symm

/-- A compare-and-swap leaves the state alone or stores the new bytes. -/
theorem physCas_cases {pa n : Nat} {e v : Word} {ok : Bool} {s t : State} (h : physCas pa n e v s = some (ok, t)) :
    t = s ∨ t = { s with mem := writeBytes s.mem pa n v } := by
  unfold physCas at h
  split at h
  · cases h
  · split at h
    · right; simp at h; exact h.2.symm
    · left; simp at h; exact h.2.symm
  · left; obtain ⟨_, _, h⟩ := Option.map_eq_some_iff.mp h; cases h; rfl

/-- A store raises, or leaves the state alone, or stores its bytes where its address translates to. -/
theorem storeBytes_cases (ea : Word) (n : Nat) (v : Word) (s : State) :
    (∃ e, storeBytes ea n v s = deliver e s) ∨ storeBytes ea n v s = s
    ∨ ∃ pa, translate .store .data ea s = .ok pa ∧ storeBytes ea n v s = { s with mem := writeBytes s.mem pa n v } := by
  unfold storeBytes memWrite
  cases hd : dataAddr .store ea n s with
  | error e => exact .inl ⟨e, rfl⟩
  | ok pa =>
    dsimp only
    cases hp : physWrite pa n v s with
    | none => exact .inl ⟨⟨.storeAccessFault, ea⟩, rfl⟩
    | some t =>
      obtain rfl | rfl := physWrite_cases hp
      · exact .inr (.inl rfl)
      · exact .inr (.inr ⟨pa, (dataAddr_ok hd).translated, rfl⟩)

/-- A load raises or writes `x[rd]`. -/
theorem loadX_cases (rd : Reg) (ea : Word) (n : Nat) (ext : Ext) (s : State) :
    (∃ e, loadX rd ea n ext s = deliver e s) ∨ ∃ v, loadX rd ea n ext s = writeX rd v s := by
  unfold loadX
  cases memRead ea n s with
  | error e => exact .inl ⟨e, rfl⟩
  | ok v => exact .inr ⟨_, rfl⟩

/-- A floating-point load raises or writes `f[rd]` where FS is not Off. -/
theorem loadF_cases (bits : Word) (fmt : Fmt) (rd : FReg) (ea : Word) (s : State) :
    (∃ e, loadF bits fmt rd ea s = deliver e s) ∨ ∃ v, mstatusFS s ≠ 0 ∧ loadF bits fmt rd ea s = writeFDirty rd v s := by
  unfold loadF fpEnabled
  split
  · exact .inl ⟨_, rfl⟩
  · dsimp only
    split
    · exact .inl ⟨_, rfl⟩
    · exact .inr ⟨_, ‹_›, rfl⟩

/-- A floating-point store raises or is the store of the raw register. -/
theorem storeF_cases (bits : Word) (fmt : Fmt) (rs2 : FReg) (ea : Word) (s : State) :
    (mstatusFS s = 0 ∧ storeF bits fmt rs2 ea s = deliver ⟨.illegalInstr, bits⟩ s)
    ∨ (mstatusFS s ≠ 0
      ∧ storeF bits fmt rs2 ea s = storeBytes ea (match fmt with | .s => 4 | .d => 8) (readF rs2 s) s) := by
  unfold storeF fpEnabled illegal
  split
  · exact .inl ⟨‹_›, rfl⟩
  · exact .inr ⟨‹_›, rfl⟩

/-- LR raises, or writes `x[rd]` and records one reservation. -/
theorem loadReserved_cases (n : Nat) (rd rs1 : Reg) (s : State) :
    (∃ e, loadReserved n rd rs1 s = deliver e s)
    ∨ ∃ pa v w, loadReserved n rd rs1 s = writeX rd w { s with resv := mapInsert pa v s.resv } := by
  unfold loadReserved
  dsimp only
  split
  · exact .inl ⟨_, rfl⟩
  · split
    · exact .inl ⟨_, rfl⟩
    · exact .inr ⟨_, _, _, rfl⟩

/-- SC raises before it touches anything, or fails and empties the table, or consumes its reservation and then raises,
or writes `x[rd]` with memory as it was or with its bytes stored where its address translates to. -/
theorem storeConditional_cases (n : Nat) (rd rs1 rs2 : Reg) (s : State) :
    (∃ e, storeConditional n rd rs1 rs2 s = deliver e s)
    ∨ storeConditional n rd rs1 rs2 s = writeX rd 1 { s with resv := [] }
    ∨ ∃ pa, translate .store .data (readX rs1 s) s = .ok pa
      ∧ ((∃ e, storeConditional n rd rs1 rs2 s = deliver e { s with resv := mapErase pa s.resv })
        ∨ (∃ w, storeConditional n rd rs1 rs2 s = writeX rd w { s with resv := mapErase pa s.resv })
        ∨ ∃ w v, storeConditional n rd rs1 rs2 s
          = writeX rd w { s with resv := mapErase pa s.resv, mem := writeBytes s.mem pa n v }) := by
  unfold storeConditional
  simp only
  cases hd : dataAddr .store (readX rs1 s) n s with
  | error e => exact .inl ⟨e, rfl⟩
  | ok pa =>
    dsimp only
    cases mapLookup pa s.resv with
    | none => exact .inr (.inl rfl)
    | some e =>
      refine .inr (.inr ⟨pa, (dataAddr_ok hd).translated, ?_⟩)
      dsimp only
      cases hc : physCas pa n (truncBytes n e) (truncBytes n (readX rs2 s)) { s with resv := mapErase pa s.resv } with
      | none => exact .inl ⟨_, rfl⟩
      | some r =>
        obtain ⟨ok, t⟩ := r
        obtain rfl | rfl := physCas_cases hc
        · exact .inr (.inl ⟨_, rfl⟩)
        · exact .inr (.inr ⟨_, _, rfl⟩)

/-- An AMO raises, or writes `x[rd]` with memory as it was (a device answered) or with its bytes stored. -/
theorem amo_cases (kind : AtomicKind) (n : Nat) (rd rs1 rs2 : Reg) (s : State) :
    (∃ e, amo kind n rd rs1 rs2 s = deliver e s) ∨ (∃ w, amo kind n rd rs1 rs2 s = writeX rd w s)
    ∨ ∃ pa w v, translate .store .data (readX rs1 s) s = .ok pa
      ∧ amo kind n rd rs1 rs2 s = writeX rd w { s with mem := writeBytes s.mem pa n v } := by
  unfold amo
  simp only
  cases hd : dataAddr .store (readX rs1 s) n s with
  | error e => exact .inl ⟨e, rfl⟩
  | ok pa =>
    dsimp only
    cases hp : physAtomic kind pa n (truncBytes n (readX rs2 s)) s with
    | none => exact .inl ⟨_, rfl⟩
    | some r =>
      obtain ⟨old, t⟩ := r
      obtain rfl | ⟨v, rfl⟩ := physAtomic_cases hp
      · exact .inr (.inl ⟨_, rfl⟩)
      · exact .inr (.inr ⟨pa, _, v, (dataAddr_ok hd).translated, rfl⟩)

/-- A CSR instruction raises, or writes `x[rd]` with the old value, over the register's write where the form writes. -/
theorem csrOp_cases (bits : Word) (rd : Reg) (a : CsrAddr) (writes : Bool) (new : Word → Word) (s : State) :
    csrOp bits rd a writes new s = deliver ⟨.illegalInstr, bits⟩ s
    ∨ ∃ c, Csr.ofAddr s.cfg.xlen a = some c ∧ csrAllowed a c writes s = true
      ∧ csrOp bits rd a writes new s = writeX rd (csrRead c s)
        (if writes then csrWrite c (norm s.cfg.xlen (new (csrRead c s))) s else s) := by
  unfold csrOp illegal
  cases hc : Csr.ofAddr s.cfg.xlen a with
  | none => exact .inl rfl
  | some c =>
    dsimp only
    split
    · exact .inr ⟨c, rfl, ‹_›, rfl⟩
    · exact .inl rfl

/-- A floating-point computation raises, or runs with a legal rounding mode where FS is not Off. -/
theorem fpRounded_cases (bits : Word) (rm : Rm) (s : State) (k : Rm → State → State) :
    fpRounded bits rm s k = deliver ⟨.illegalInstr, bits⟩ s
    ∨ ∃ m, mstatusFS s ≠ 0 ∧ RoundsBy rm m s ∧ fpRounded bits rm s k = k m s := by
  unfold fpRounded fpEnabled illegal RoundsBy
  by_cases h : mstatusFS s = 0#2
  · exact .inl (if_pos h)
  · rw [if_neg h]
    dsimp only
    cases hm : effRm rm s with
    | none => exact .inl rfl
    | some m =>
      unfold effRm at hm
      simp only [Option.ite_none_right_eq_some, Option.some.injEq] at hm
      exact .inr ⟨m, h, ⟨hm.2.symm, hm.2 ▸ hm.1⟩, rfl⟩

/-- EBREAK halts the hart or raises Breakpoint, as the build says. -/
theorem breakOrHalt_cases (s : State) :
    (s.cfg.haltOnEbreak = true ∧ breakOrHalt s = haltHart s)
    ∨ (s.cfg.haltOnEbreak = false ∧ breakOrHalt s = deliver ⟨.breakpoint, s.pc⟩ s) := by
  unfold breakOrHalt
  cases s.cfg.haltOnEbreak <;> simp

end Sys2Proof.Machine
end

