-- ==== Sys2Proof/Machine/HostIf.lean ====
section
/-!
DEFINITION. Machine/HostIf.lean: the host's other calls (60_exceptions.md rules R915 to R918, 70_reset_and_hazards.md
rules R930, R931): reset, the free-running loop, inspection.
-/

namespace Sys2Proof.Machine

/-- A constructed hart before its first reset is Idle; every other piece of its state is unspecified, so it is the
caller's (10_state.md rule R121, log entry 7). -/
def construct (cfg : Build) (unspecified : State) : State := { unspecified with cfg := cfg, runState := .idle }

/-- `reset(entry)` in any run-state: memory and the uptime stay (rules R930, R931); the draws to come are the
outside's. -/
def hostReset (entry : Word) (s : State) : State :=
  { State.resetOf s.cfg (norm s.cfg.xlen entry) with
    mem := s.mem
    uptime := s.uptime
    env := s.env
    draws := s.draws }

/-- `run(breakpoints)` for at most `fuel` turns of its loop (40_step.md rule R434, rule R916). -/
def runLoop (breakpoints : List Word) : (fuel : Nat) → State → Result
  | 0, s => .next s
  | fuel + 1, s =>
    if s.runState = .running then
      if breakpoints.contains s.pc then .next { s with runState := .breakpoint }
      else
        match stepWith (pollDue s) s with
        | .next s' => runLoop breakpoints fuel s'
        | .fault f => .fault f
        | .refused r => .refused r
    else .next s

/-- `get_pc()` (rule R917). -/
def getPc (s : State) : Word := s.pc

/-- `get_gpr(i)` (rule R917). -/
def getGpr (r : Reg) (s : State) : Word := readX r s

/-- `get_halt_pc()` (rule R917). -/
def getHaltPc (s : State) : Word := s.haltPc

/-- `get_halt_code()` (rule R917). -/
def getHaltCode (s : State) : Word := s.haltCode

/-- The register names `x0` to `x31`, in order. -/
def xNames : List String :=
  ["x0", "x1", "x2", "x3", "x4", "x5", "x6", "x7", "x8", "x9", "x10", "x11", "x12", "x13", "x14", "x15",
    "x16", "x17", "x18", "x19", "x20", "x21", "x22", "x23", "x24", "x25", "x26", "x27", "x28", "x29", "x30", "x31"]

/-- The ABI names of `x0` to `x31`, in order (10_state.md rule R42); `x8` is also `fp`. -/
def abiNames : List String :=
  ["zero", "ra", "sp", "gp", "tp", "t0", "t1", "t2", "s0", "s1", "a0", "a1", "a2", "a3", "a4", "a5",
    "a6", "a7", "s2", "s3", "s4", "s5", "s6", "s7", "s8", "s9", "s10", "s11", "t3", "t4", "t5", "t6"]

/-- `get_register_by_name(name)`; none is `valid = false` (rule R917). -/
def getRegisterByName (name : String) (s : State) : Option Word :=
  if name = "pc" then some s.pc
  else if name = "fp" then some (readX 8 s)
  else if name ∈ xNames then some (readX (BitVec.ofNat 5 (xNames.idxOf name)) s)
  else if name ∈ abiNames then some (readX (BitVec.ofNat 5 (abiNames.idxOf name)) s)
  else none

/-- `vaddr_translate(addr)`: Load access, no PMP check, no trap; none is `valid = false` (rule R918, 20_memory.md rule
R244). DESIGN CHOICE (log entry 8): a page table in a device region answers the inspection with a free value of its own,
slot `inspect`, which is the same for two inspections between the same two steps. -/
def vaddrTranslate (addr : Word) (s : State) : Option Nat :=
  match translate .load .inspect addr s with
  | .ok pa => some pa
  | .error _ => none

end Sys2Proof.Machine
end

