-- ==== Sys2Proof/Tests/Slice0.lean ====
section
/-!
SUPPORT. Tests/Slice0.lean: the model's own tests. Expected results are those of the vectors of spec/95_test_vectors.md,
spec/96_test_vectors_fp_c.md and spec/97_test_vectors_traps_mem.md, which are named by their numbers, or are worked out
from the rule a docstring names. The last part shows, for every statement with hypotheses, a state and operands that
meet them.
-/

namespace Sys2Proof.Machine.Tests

/-! ### Well-formedness: one ill-formed term for each check -/

theorem test_wf_only64 : (Instr.lwu 10 11 0).wf .rv32 = false ∧ (Instr.lwu 10 11 0).wf .rv64 = true := by decide
theorem test_wf_only32 : (Instr.cJal 4).wf .rv64 = false ∧ (Instr.cJal 4).wf .rv32 = true := by decide
theorem test_wf_shamt : (Instr.slli 10 11 32).wf .rv32 = false ∧ (Instr.slli 10 11 31).wf .rv32 = true := by decide
theorem test_wf_reserved : (Instr.cIllegal 0x0001).wf .rv64 = false ∧ (Instr.cIllegal 0x8002).wf .rv64 = true := by
  decide
theorem test_wf_zero_imm : (Instr.cAddi4spn 2 0).wf .rv64 = false ∧ (Instr.cAddi16sp 0).wf .rv64 = false := by decide
theorem test_wf_zero_rd : (Instr.cAddi 0 1).wf .rv64 = false ∧ (Instr.cLwsp 0 1).wf .rv64 = false := by decide
theorem test_wf_zero_rd64 : (Instr.cAddiw 0 1).wf .rv64 = false ∧ (Instr.cLdsp 0 1).wf .rv64 = false
    ∧ (Instr.cAddiw 1 1).wf .rv32 = false := by decide
theorem test_wf_cLui : (Instr.cLui 2 1).wf .rv64 = false ∧ (Instr.cLui 3 0).wf .rv64 = false := by decide
theorem test_wf_zero_rs1 : (Instr.cJr 0).wf .rv64 = false ∧ (Instr.cJalr 0).wf .rv64 = false := by decide
theorem test_wf_zero_rs2 : (Instr.cMv 5 0).wf .rv64 = false ∧ (Instr.cAdd 5 0).wf .rv64 = false := by decide

/-! ### Decoding: words written out field by field from 30_encoding.md -/

/-- Rule R333 (R, I, S, B, U, J), rules R341 to R344: `mul x10, x11, x12`, `addi`, `sd`, `bne` -4, `lui`, `jal` +8. -/
theorem test_decode_fields :
    decodeWord .rv64 (0b0000001#7 ++ 0b01100#5 ++ 0b01011#5 ++ 0b000#3 ++ 0b01010#5 ++ 0b0110011#7) = .ok (.mul 10 11 12)
    ∧ decodeWord .rv64 (0b111111111110#12 ++ 0b00110#5 ++ 0b000#3 ++ 0b00101#5 ++ 0b0010011#7) = .ok (.addi 5 6 (-2))
    ∧ decodeWord .rv64 (0b1000000#7 ++ 0b01100#5 ++ 0b01011#5 ++ 0b011#3 ++ 0b00001#5 ++ 0b0100011#7)
      = .ok (.sd 11 12 (-2047))
    ∧ decodeWord .rv64 (0b1#1 ++ 0b111111#6 ++ 0b01011#5 ++ 0b01010#5 ++ 0b001#3 ++ 0b1110#4 ++ 0b1#1 ++ 0b1100011#7)
      = .ok (.bne 10 11 (-2))
    ∧ decodeWord .rv64 (0b10000000000000000001#20 ++ 0b01010#5 ++ 0b0110111#7) = .ok (.lui 10 0x80001)
    ∧ decodeWord .rv64 (0b0#1 ++ 0b0000000100#10 ++ 0b0#1 ++ 0b00000000#8 ++ 0b00001#5 ++ 0b1101111#7) = .ok (.jal 1 4) := by
  decide

/-- Rules R345, R346, R357, R358: a shift amount of 63, a CSR address, `aq` without `rl`, `rm` and `rs3`. -/
theorem test_decode_special_fields :
    decodeWord .rv64 (0b010000#6 ++ 0b111111#6 ++ 0b01011#5 ++ 0b101#3 ++ 0b01010#5 ++ 0b0010011#7) = .ok (.srai 10 11 63)
    ∧ decodeWord .rv64 (0b001100000101#12 ++ 0b00101#5 ++ 0b111#3 ++ 0b00000#5 ++ 0b1110011#7) = .ok (.csrrci 0 5 0x305)
    ∧ decodeWord .rv64 (0b00001#5 ++ 0b1#1 ++ 0b0#1 ++ 0b00110#5 ++ 0b01010#5 ++ 0b010#3 ++ 0b00101#5 ++ 0b0101111#7)
      = .ok (.amoswapW 5 10 6 1 0)
    ∧ decodeWord .rv64 (0b01101#5 ++ 0b01#2 ++ 0b01100#5 ++ 0b01011#5 ++ 0b001#3 ++ 0b01010#5 ++ 0b1001011#7)
      = .ok (.fnmsubD 10 11 12 13 1)
    ∧ decodeWord .rv64 (0b1000#4 ++ 0b0011#4 ++ 0b0010#4 ++ 0b00001#5 ++ 0b000#3 ++ 0b00010#5 ++ 0b0001111#7)
      = .ok (.fence 8 3 2 1 2) := by
  decide

/-- Rules R382, R383: `c.lw x10, 64(x11)`, whose offset bit 6 is `c[5]`; `c.j` -2; `c.addi16sp` 16. -/
theorem test_decode_compressed_fields :
    decodeWord .rv64 (0#16 ++ (0b010#3 ++ 0b000#3 ++ 0b011#3 ++ 0b01#2 ++ 0b010#3 ++ 0b00#2)) = .ok (.cLw 2 3 16)
    ∧ decodeWord .rv64 (0#16 ++ (0b101#3 ++ 0b11111111111#11 ++ 0b01#2)) = .ok (.cJ (-1))
    ∧ decodeWord .rv64 (0#16 ++ (0b011#3 ++ 0b0#1 ++ 0b00010#5 ++ 0b10000#5 ++ 0b01#2)) = .ok (.cAddi16sp 1) := by
  decide

/-- Rules R370, R372, R385, R345: rejected by name; a reserved compressed encoding is an instruction of its own. -/
theorem test_decode_rejects :
    decodeWord .rv64 0x0000007F = .error (.noPattern32 0x7F) ∧ decodeWord .rv32 0x02059513 = .error (.noPattern32 0x02059513)
    ∧ decodeWord .rv64 0x1015A52F = .error (.noPattern32 0x1015A52F) ∧ decode .rv64 [0x13, 0x05] = .error .truncated
    ∧ decodeWord .rv64 0x00008000 = .ok (.cIllegal 0x8000) ∧ decodeTableWord 16 0x9002 = some .cEbreak := by decide

/-- The decoder reads the row's instruction from its word. -/
def decodesTo (r : Xlen × BitVec 32 × Instr) : Bool :=
  match decodeWord r.1 r.2.1 with
  | .ok i => i == r.2.2
  | .error _ => false

/-- One word for every constructor of the family, from the vectors of 41_integer.md. -/
def decodeRowsInteger : List (Xlen × BitVec 32 × Instr) :=
  [ (.rv64, 0x80000537, .lui 10 524288), (.rv64, 0xFFFFF517, .auipc 10 1048575),
    (.rv64, 0xFFF58513, .addi 10 11 (-1)), (.rv64, 0xFFF5A513, .slti 10 11 (-1)),
    (.rv64, 0xFFF5B513, .sltiu 10 11 (-1)), (.rv64, 0xFFF5C513, .xori 10 11 (-1)),
    (.rv64, 0xF005E513, .ori 10 11 (-256)), (.rv64, 0xFF05F513, .andi 10 11 (-16)),
    (.rv64, 0x03F59513, .slli 10 11 (63)), (.rv64, 0x03F5D513, .srli 10 11 (63)),
    (.rv64, 0x43F5D513, .srai 10 11 (63)), (.rv64, 0x00C58533, .add 10 11 12), (.rv64, 0x40C58533, .sub 10 11 12),
    (.rv64, 0x00C59533, .sll 10 11 12), (.rv64, 0x00C5A533, .slt 10 11 12), (.rv64, 0x00C5B533, .sltu 10 11 12),
    (.rv64, 0x00C5C533, .xor 10 11 12), (.rv64, 0x00C5D533, .srl 10 11 12), (.rv64, 0x40C5D533, .sra 10 11 12),
    (.rv64, 0x00C5E533, .or 10 11 12), (.rv64, 0x00C5F533, .and 10 11 12), (.rv64, 0xFFF5851B, .addiw 10 11 (-1)),
    (.rv64, 0x01F5951B, .slliw 10 11 (31)), (.rv64, 0x0005D51B, .srliw 10 11 (0)),
    (.rv64, 0x4045D51B, .sraiw 10 11 (4)), (.rv64, 0x00C5853B, .addw 10 11 12), (.rv64, 0x40C5853B, .subw 10 11 12),
    (.rv64, 0x00C5953B, .sllw 10 11 12), (.rv64, 0x00C5D53B, .srlw 10 11 12), (.rv64, 0x40C5D53B, .sraw 10 11 12) ]

theorem test_decodeRowsInteger : decodeRowsInteger.all decodesTo = true := by decide

/-- One word for every constructor of the family, from the vectors of 42_control.md. -/
def decodeRowsControl : List (Xlen × BitVec 32 × Instr) :=
  [ (.rv64, 0xFFDFF06F, .jal 0 (-2)), (.rv64, 0xFFF58067, .jalr 0 11 (-1)), (.rv64, 0x80000063, .beq 0 0 (-2048)),
    (.rv64, 0xFEB51CE3, .bne 10 11 (-4)), (.rv64, 0x00B54663, .blt 10 11 (6)), (.rv64, 0x00B55663, .bge 10 11 (6)),
    (.rv64, 0x00B56663, .bltu 10 11 (6)), (.rv64, 0x00B57663, .bgeu 10 11 (6)) ]

theorem test_decodeRowsControl : decodeRowsControl.all decodesTo = true := by decide

/-- One word for every constructor of the family, from the vectors of 43_loadstore.md. -/
def decodeRowsLoadstore : List (Xlen × BitVec 32 × Instr) :=
  [ (.rv64, 0x00758503, .lb 10 11 (7)), (.rv64, 0x00659503, .lh 10 11 (6)), (.rv64, 0xFFC5A503, .lw 10 11 (-4)),
    (.rv64, 0x0075C503, .lbu 10 11 (7)), (.rv64, 0x0065D503, .lhu 10 11 (6)), (.rv64, 0x0045E503, .lwu 10 11 (4)),
    (.rv64, 0x0005B503, .ld 10 11 (0)), (.rv64, 0x00C581A3, .sb 11 12 (3)), (.rv64, 0x00C59123, .sh 11 12 (2)),
    (.rv64, 0x80C5A023, .sw 11 12 (-2048)), (.rv64, 0x00C5B023, .sd 11 12 (0)) ]

theorem test_decodeRowsLoadstore : decodeRowsLoadstore.all decodesTo = true := by decide

/-- One word for every constructor of the family, from the vectors of 44_system.md. -/
def decodeRowsSystem : List (Xlen × BitVec 32 × Instr) :=
  [ (.rv64, 0x0FF0000F, .fence 0 15 15 0 0), (.rv64, 0x0000100F, .fenceI 0 0 0), (.rv64, 0x00000073, .ecall),
    (.rv64, 0x00100073, .ebreak), (.rv64, 0x10200073, .sret), (.rv64, 0x30200073, .mret), (.rv64, 0x10500073, .wfi),
    (.rv64, 0x12B50073, .sfenceVma 10 11), (.rv64, 0xB0229573, .csrrw 10 5 0xB02),
    (.rv64, 0xF142A573, .csrrs 10 5 0xF14), (.rv64, 0x3002B073, .csrrc 0 5 0x300),
    (.rv64, 0x340FD573, .csrrwi 10 31 0x340), (.rv64, 0xF1106573, .csrrsi 10 0 0xF11),
    (.rv64, 0xF130F573, .csrrci 10 1 0xF13) ]

theorem test_decodeRowsSystem : decodeRowsSystem.all decodesTo = true := by decide

/-- One word for every constructor of the family, from the vectors of 45_muldiv.md. -/
def decodeRowsMuldiv : List (Xlen × BitVec 32 × Instr) :=
  [ (.rv64, 0x02C58533, .mul 10 11 12), (.rv64, 0x02C59533, .mulh 10 11 12), (.rv64, 0x02C5A533, .mulhsu 10 11 12),
    (.rv64, 0x02C5B533, .mulhu 10 11 12), (.rv64, 0x02C5C533, .div 10 11 12), (.rv64, 0x02C5D533, .divu 10 11 12),
    (.rv64, 0x02C5E533, .rem 10 11 12), (.rv64, 0x02C5F533, .remu 10 11 12), (.rv64, 0x02C5853B, .mulw 10 11 12),
    (.rv64, 0x02C5C53B, .divw 10 11 12), (.rv64, 0x02C5D53B, .divuw 10 11 12), (.rv64, 0x02C5E53B, .remw 10 11 12),
    (.rv64, 0x02C5F53B, .remuw 10 11 12) ]

theorem test_decodeRowsMuldiv : decodeRowsMuldiv.all decodesTo = true := by decide

/-- One word for every constructor of the family, from the vectors of 46_atomics.md. -/
def decodeRowsAtomics : List (Xlen × BitVec 32 × Instr) :=
  [ (.rv64, 0x1005A52F, .lrW 10 11 0 0), (.rv64, 0x1005B52F, .lrD 10 11 0 0), (.rv64, 0x18C5A52F, .scW 10 11 12 0 0),
    (.rv64, 0x18C5B52F, .scD 10 11 12 0 0), (.rv64, 0x08C5A52F, .amoswapW 10 11 12 0 0),
    (.rv64, 0x00C5A52F, .amoaddW 10 11 12 0 0), (.rv64, 0x20C5A52F, .amoxorW 10 11 12 0 0),
    (.rv64, 0x60C5A52F, .amoandW 10 11 12 0 0), (.rv64, 0x40C5A52F, .amoorW 10 11 12 0 0),
    (.rv64, 0x80C5A52F, .amominW 10 11 12 0 0), (.rv64, 0xA0C5A52F, .amomaxW 10 11 12 0 0),
    (.rv64, 0xC0C5A52F, .amominuW 10 11 12 0 0), (.rv64, 0xE0C5A52F, .amomaxuW 10 11 12 0 0),
    (.rv64, 0x08C5B52F, .amoswapD 10 11 12 0 0), (.rv64, 0x00C5B52F, .amoaddD 10 11 12 0 0),
    (.rv64, 0x20C5B52F, .amoxorD 10 11 12 0 0), (.rv64, 0x60C5B52F, .amoandD 10 11 12 0 0),
    (.rv64, 0x40C5B52F, .amoorD 10 11 12 0 0), (.rv64, 0x80C5B52F, .amominD 10 11 12 0 0),
    (.rv64, 0xA0C5B52F, .amomaxD 10 11 12 0 0), (.rv64, 0xC0C5B52F, .amominuD 10 11 12 0 0),
    (.rv64, 0xE0C5B52F, .amomaxuD 10 11 12 0 0) ]

theorem test_decodeRowsAtomics : decodeRowsAtomics.all decodesTo = true := by decide

/-- One word for every constructor of the family, from the vectors of 47_float_f.md. -/
def decodeRowsFloatF : List (Xlen × BitVec 32 × Instr) :=
  [ (.rv64, 0x0045A507, .flw 10 11 (4)), (.rv64, 0x00B5A427, .fsw 11 11 (8)), (.rv64, 0x00C5F553, .faddS 10 11 12 7),
    (.rv64, 0x08C5F553, .fsubS 10 11 12 7), (.rv64, 0x10C5F553, .fmulS 10 11 12 7),
    (.rv64, 0x18C5F553, .fdivS 10 11 12 7), (.rv64, 0x5805F553, .fsqrtS 10 11 7),
    (.rv64, 0x68C5F543, .fmaddS 10 11 12 13 7), (.rv64, 0x68C5F547, .fmsubS 10 11 12 13 7),
    (.rv64, 0x68C5F54B, .fnmsubS 10 11 12 13 7), (.rv64, 0x68C5F54F, .fnmaddS 10 11 12 13 7),
    (.rv64, 0x20C58553, .fsgnjS 10 11 12), (.rv64, 0x20B59553, .fsgnjnS 10 11 11),
    (.rv64, 0x20C5A553, .fsgnjxS 10 11 12), (.rv64, 0x28C58553, .fminS 10 11 12),
    (.rv64, 0x28C59553, .fmaxS 10 11 12), (.rv64, 0xA0C5A553, .feqS 10 11 12), (.rv64, 0xA0C59553, .fltS 10 11 12),
    (.rv64, 0xA0C58553, .fleS 10 11 12), (.rv64, 0xE0059553, .fclassS 10 11), (.rv64, 0xC0059553, .fcvtWS 10 11 1),
    (.rv64, 0xC0159553, .fcvtWuS 10 11 1), (.rv64, 0xC0259553, .fcvtLS 10 11 1),
    (.rv64, 0xC0359553, .fcvtLuS 10 11 1), (.rv64, 0xD0058553, .fcvtSW 10 11 0),
    (.rv64, 0xD0158553, .fcvtSWu 10 11 0), (.rv64, 0xD0258553, .fcvtSL 10 11 0),
    (.rv64, 0xD0358553, .fcvtSLu 10 11 0), (.rv64, 0xE0058553, .fmvXW 10 11), (.rv64, 0xF0058553, .fmvWX 10 11) ]

theorem test_decodeRowsFloatF : decodeRowsFloatF.all decodesTo = true := by decide

/-- One word for every constructor of the family, from the vectors of 48_float_d.md. -/
def decodeRowsFloatD : List (Xlen × BitVec 32 × Instr) :=
  [ (.rv64, 0x0085B507, .fld 10 11 (8)), (.rv64, 0x00B5B827, .fsd 11 11 (16)),
    (.rv64, 0x02C5F553, .faddD 10 11 12 7), (.rv64, 0x0AC5F553, .fsubD 10 11 12 7),
    (.rv64, 0x12C5F553, .fmulD 10 11 12 7), (.rv64, 0x1AC5F553, .fdivD 10 11 12 7),
    (.rv64, 0x5A05F553, .fsqrtD 10 11 7), (.rv64, 0x6AC5F543, .fmaddD 10 11 12 13 7),
    (.rv64, 0x6AC5F547, .fmsubD 10 11 12 13 7), (.rv64, 0x6AC5F54B, .fnmsubD 10 11 12 13 7),
    (.rv64, 0x6AC5F54F, .fnmaddD 10 11 12 13 7), (.rv64, 0x22C58553, .fsgnjD 10 11 12),
    (.rv64, 0x22B59553, .fsgnjnD 10 11 11), (.rv64, 0x22B5A553, .fsgnjxD 10 11 11),
    (.rv64, 0x2AC58553, .fminD 10 11 12), (.rv64, 0x2AC59553, .fmaxD 10 11 12), (.rv64, 0xA2C5A553, .feqD 10 11 12),
    (.rv64, 0xA2C59553, .fltD 10 11 12), (.rv64, 0xA2C58553, .fleD 10 11 12), (.rv64, 0xE2059553, .fclassD 10 11),
    (.rv64, 0x40158553, .fcvtSD 10 11 0), (.rv64, 0x42058553, .fcvtDS 10 11 0), (.rv64, 0xC2059553, .fcvtWD 10 11 1),
    (.rv64, 0xC2159553, .fcvtWuD 10 11 1), (.rv64, 0xC2259553, .fcvtLD 10 11 1),
    (.rv64, 0xC2359553, .fcvtLuD 10 11 1), (.rv64, 0xD2058553, .fcvtDW 10 11 0),
    (.rv64, 0xD2158553, .fcvtDWu 10 11 0), (.rv64, 0xD2258553, .fcvtDL 10 11 0),
    (.rv64, 0xD2358553, .fcvtDLu 10 11 0), (.rv64, 0xE2058553, .fmvXD 10 11), (.rv64, 0xF2058553, .fmvDX 10 11) ]

theorem test_decodeRowsFloatD : decodeRowsFloatD.all decodesTo = true := by decide

/-- One word for every constructor of the family, from the vectors of 49_compressed.md. -/
def decodeRowsCompressed1 : List (Xlen × BitVec 32 × Instr) :=
  [ (.rv64, 0x1FE0, .cAddi4spn 0 255), (.rv64, 0x2588, .cFld 2 3 1), (.rv64, 0x41C8, .cLw 2 3 1),
    (.rv32, 0x61C8, .cFlw 2 3 1), (.rv64, 0x6588, .cLd 2 3 1), (.rv64, 0xA588, .cFsd 3 2 1),
    (.rv64, 0xC1C8, .cSw 3 2 1), (.rv32, 0xE1C8, .cFsw 3 2 1), (.rv64, 0xE588, .cSd 3 2 1), (.rv64, 0x0001, .cNop 0),
    (.rv64, 0x157D, .cAddi 10 (-1)), (.rv32, 0x3FF5, .cJal (-2)), (.rv64, 0x2505, .cAddiw 10 (1)),
    (.rv64, 0x557D, .cLi 10 (-1)), (.rv64, 0x713D, .cAddi16sp (-2)), (.rv64, 0x757D, .cLui 10 (-1)),
    (.rv64, 0x8105, .cSrli 2 (1)), (.rv64, 0x8505, .cSrai 2 (1)), (.rv64, 0x9941, .cAndi 2 (-16)),
    (.rv64, 0x8D0D, .cSub 2 3), (.rv64, 0x8D2D, .cXor 2 3), (.rv64, 0x8D4D, .cOr 2 3), (.rv64, 0x8D6D, .cAnd 2 3),
    (.rv64, 0x9D0D, .cSubw 2 3), (.rv64, 0x9D2D, .cAddw 2 3), (.rv64, 0xB001, .cJ (-1024)),
    (.rv64, 0xD101, .cBeqz 2 (-128)), (.rv64, 0xED7D, .cBnez 2 (127)), (.rv64, 0x0512, .cSlli 10 (4)),
    (.rv64, 0x2522, .cFldsp 10 1), (.rv64, 0x4512, .cLwsp 10 1), (.rv32, 0x6512, .cFlwsp 10 1),
    (.rv64, 0x6522, .cLdsp 10 1), (.rv64, 0x8082, .cJr 1), (.rv64, 0x852E, .cMv 10 11), (.rv64, 0x9002, .cEbreak),
    (.rv64, 0x9502, .cJalr 10), (.rv64, 0x952E, .cAdd 10 11), (.rv64, 0xA42A, .cFsdsp 10 1),
    (.rv64, 0xC22A, .cSwsp 10 1) ]

theorem test_decodeRowsCompressed1 : decodeRowsCompressed1.all decodesTo = true := by decide

/-- One word for every constructor of the family, from the vectors of 49_compressed.md. -/
def decodeRowsCompressed2 : List (Xlen × BitVec 32 × Instr) :=
  [ (.rv32, 0xE22A, .cFswsp 10 1), (.rv64, 0xE42A, .cSdsp 10 1) ]

theorem test_decodeRowsCompressed2 : decodeRowsCompressed2.all decodesTo = true := by decide

/-! ### One step each -/

/-- The draws of a step in which nothing comes from outside. -/
def quiet : StepInput where
  lines := []
  busWrites := []
  lateLines := []
  lateWrites := []
  dropResv := []
  useIcache := true
  fillAfterTrap := false
  advance := 0
  timerWaits := true

/-- The hart of 95_test_vectors.md section 2, with some registers. -/
def start (xl : Xlen) (regs : List (Reg × Word)) : State :=
  regs.foldl (fun s r => writeX r.1 r.2 s)
    { State.resetOf { Build.default with xlen := xl } 0x80000000 with env := [quiet] }

/-- FS is Initial, as in the rows of 96_test_vectors_fp_c.md, and some floating-point registers are set. -/
def withF (fregs : List (FReg × Word)) (s : State) : State :=
  fregs.foldl (fun s r => writeF r.1 r.2 s) { s with mstatus := s.mstatus ||| 0x2000 }

/-- A number in memory. -/
def withMem (n a : Nat) (v : Word) (s : State) : State := { s with mem := writeBytes s.mem a n v }

/-- A mode below Machine, with the PMP open ("PMP open" of 95_test_vectors.md section 2). -/
def inMode (p : Priv) (s : State) : State :=
  { s with
    priv := p
    pmpcfg := s.pmpcfg.set 0 0x1F
    pmpaddr := s.pmpaddr.set 0 0x3FFFFFFFFFFFFF }

/-- The state after one step on a word at `pc`. -/
def after (w : Nat) (s : State) : State :=
  match step (s.withFetchWord 32 w) with
  | .next t => t
  | .fault _ | .refused _ => s

/-- One step: the registers before, one register and the `pc` after. -/
structure StepRow where
  xl : Xlen
  word : Nat
  regs : List (Reg × Word)
  rd : Reg
  want : Word
  pc : Word

def StepRow.holds (r : StepRow) : Bool :=
  let t := after r.word (start r.xl r.regs)
  readX r.rd t == r.want && t.pc == r.pc

/-- A load: the bytes in memory before, the register after. -/
structure LoadRow where
  xl : Xlen
  word : Nat
  regs : List (Reg × Word)
  bytes : Nat
  addr : Nat
  value : Word
  isF : Bool
  rd : BitVec 5
  want : Word

def LoadRow.holds (r : LoadRow) : Bool :=
  let t := after r.word (withMem r.bytes r.addr r.value (withF [] (start r.xl r.regs)))
  (if r.isF then readF r.rd t else readX r.rd t) == r.want && mstatusFS t == (if r.isF then 3 else 1)

/-- A store: memory after. -/
structure StoreRow where
  xl : Xlen
  word : Nat
  regs : List (Reg × Word)
  fregs : List (FReg × Word)
  bytes : Nat
  addr : Nat
  want : Word

def StoreRow.holds (r : StoreRow) : Bool :=
  let t := after r.word (withF r.fregs (start r.xl r.regs))
  readBytes t.mem r.addr r.bytes == r.want && mstatusFS t == 1
    && readByte t.mem (r.addr + r.bytes) == 0 && readByte t.mem (r.addr - 1) == 0

/-- An SC or AMO at 0x80001000 with `a2` (or `a0`) as the source: `a0` and memory after. -/
structure AtomicRow where
  xl : Xlen
  word : Nat
  source : Word
  bytes : Nat
  value : Word
  resv : List (Nat × BitVec 64)
  wantA0 : Word
  wantBytes : Nat
  wantMem : Word

def AtomicRow.holds (r : AtomicRow) : Bool :=
  let s := withMem r.bytes 0x80001000 r.value (start r.xl [(11, 0x80001000), (12, r.source)])
  let t := after r.word { s with resv := r.resv }
  readX 10 t == r.wantA0 && readBytes t.mem 0x80001000 r.wantBytes == r.wantMem && t.resv == []

/-- A floating-point instruction: `a1` and the floating-point registers before; `fa0` or `a0`, and `fcsr`, after. -/
structure FpRow where
  xl : Xlen
  word : Nat
  a1 : Word
  fregs : List (FReg × Word)
  isF : Bool
  want : Word
  fcsr : BitVec 8

def FpRow.holds (r : FpRow) : Bool :=
  let t := after r.word (withF r.fregs (start r.xl [(11, r.a1)]))
  (if r.isF then readF 10 t else readX 10 t) == r.want && t.fcsr == r.fcsr
    && mstatusFS t == (if r.isF || r.fcsr != 0 then 3 else 1)

/-- V41 rows 1, 4, 8, 9, 10, 12, 14, 15, 16, 17, 19, 23, 25, 27. -/
theorem test_immediate_forms :
  (show List StepRow from
  [ ⟨.rv64, 0x80000537, [], 10, 0xFFFFFFFF80000000, 0x80000004⟩, ⟨.rv64, 0xFFFFF517, [], 10, 0x7FFFF000, 0x80000004⟩,
    ⟨.rv32, 0x7FF58513, [(11, 0xFFFFFFFF)], 10, 0x7FE, 0x80000004⟩,
    ⟨.rv64, 0x80050513, [(10, 0x800)], 10, 0, 0x80000004⟩,
    ⟨.rv64, 0xFFF5A513, [(11, 0xFFFFFFFFFFFFFFFE)], 10, 1, 0x80000004⟩,
    ⟨.rv64, 0xFFF5B513, [(11, 5)], 10, 1, 0x80000004⟩,
    ⟨.rv64, 0xFFF5B513, [(11, 0xFFFFFFFFFFFFFFFF)], 10, 0, 0x80000004⟩,
    ⟨.rv64, 0xFFF5C513, [(11, 0xFF00FF00FF00FF)], 10, 0xFF00FF00FF00FF00, 0x80000004⟩,
    ⟨.rv64, 0xF005E513, [(11, 0x12)], 10, 0xFFFFFFFFFFFFFF12, 0x80000004⟩,
    ⟨.rv64, 0xFF05F513, [(11, 0x123456789ABCDEFF)], 10, 0x123456789ABCDEF0, 0x80000004⟩,
    ⟨.rv64, 0x03F59513, [(11, 3)], 10, 0x8000000000000000, 0x80000004⟩,
    ⟨.rv64, 0x03F5D513, [(11, 0x8000000000000000)], 10, 1, 0x80000004⟩,
    ⟨.rv64, 0x43F5D513, [(11, 0x8000000000000000)], 10, 0xFFFFFFFFFFFFFFFF, 0x80000004⟩,
    ⟨.rv32, 0x41F5D513, [(11, 0x80000000)], 10, 0xFFFFFFFF, 0x80000004⟩ ]
  ).all StepRow.holds = true := by decide

/-- V41 rows 29, 32, 35, 37, 39, 41, 42, 43, 44, 45, 46. -/
theorem test_register_forms :
  (show List StepRow from
  [ ⟨.rv64, 0x00C58533, [(11, 0xFFFFFFFFFFFFFFFF), (12, 1)], 10, 0, 0x80000004⟩,
    ⟨.rv64, 0x40C58533, [(11, 0), (12, 1)], 10, 0xFFFFFFFFFFFFFFFF, 0x80000004⟩,
    ⟨.rv32, 0x00C59533, [(11, 1), (12, 0x21)], 10, 2, 0x80000004⟩,
    ⟨.rv64, 0x00C5A533, [(11, 0xFFFFFFFFFFFFFFFF), (12, 1)], 10, 1, 0x80000004⟩,
    ⟨.rv64, 0x00C5B533, [(11, 0xFFFFFFFFFFFFFFFF), (12, 1)], 10, 0, 0x80000004⟩,
    ⟨.rv64, 0x00C5C533, [(11, 0xFF00FF00), (12, 0xFF00FF0)], 10, 0xF0F0F0F0, 0x80000004⟩,
    ⟨.rv64, 0x00C5D533, [(11, 0xFFFFFFFFFFFFFFFF), (12, 0x7C)], 10, 0xF, 0x80000004⟩,
    ⟨.rv32, 0x00C5D533, [(11, 0x80000000), (12, 0x3F)], 10, 1, 0x80000004⟩,
    ⟨.rv64, 0x40C5D533, [(11, 0xF000000000000000), (12, 0x7C)], 10, 0xFFFFFFFFFFFFFFFF, 0x80000004⟩,
    ⟨.rv64, 0x00C5E533, [(11, 0xFF00FF00), (12, 0xFF00FF0)], 10, 0xFFF0FFF0, 0x80000004⟩,
    ⟨.rv64, 0x00C5F533, [(11, 0xFF00FF00), (12, 0xFF00FF0)], 10, 0xF000F00, 0x80000004⟩ ]
  ).all StepRow.holds = true := by decide

/-- V41 rows 48, 51, 54, 55, 57, 60, 61, 64, 65. -/
theorem test_word_forms :
  (show List StepRow from
  [ ⟨.rv64, 0x0005851B, [(11, 0x180000000)], 10, 0xFFFFFFFF80000000, 0x80000004⟩,
    ⟨.rv64, 0x01F5951B, [(11, 1)], 10, 0xFFFFFFFF80000000, 0x80000004⟩,
    ⟨.rv64, 0x0045D51B, [(11, 0xABCDEF0180000000)], 10, 0x8000000, 0x80000004⟩,
    ⟨.rv64, 0x4045D51B, [(11, 0x80000000)], 10, 0xFFFFFFFFF8000000, 0x80000004⟩,
    ⟨.rv64, 0x00C5853B, [(11, 0x7FFFFFFF), (12, 1)], 10, 0xFFFFFFFF80000000, 0x80000004⟩,
    ⟨.rv64, 0x40C0053B, [(12, 0x100000001)], 10, 0xFFFFFFFFFFFFFFFF, 0x80000004⟩,
    ⟨.rv64, 0x00C5953B, [(11, 0x80000001), (12, 0x20)], 10, 0xFFFFFFFF80000001, 0x80000004⟩,
    ⟨.rv64, 0x00C5D53B, [(11, 0x80000000), (12, 0x20)], 10, 0xFFFFFFFF80000000, 0x80000004⟩,
    ⟨.rv64, 0x40C5D53B, [(11, 0x80000000), (12, 0x3F)], 10, 0xFFFFFFFFFFFFFFFF, 0x80000004⟩ ]
  ).all StepRow.holds = true := by decide

/-- V42 rows 1, 4, 6, 7, 10, 11, 12, 14, 15, 16, 18, 19, 20. -/
theorem test_jumps_and_branches :
  (show List StepRow from
  [ ⟨.rv64, 0x008000EF, [], 1, 0x80000004, 0x80000008⟩, ⟨.rv32, 0x800000EF, [], 1, 0x80000004, 0x7FF00000⟩,
    ⟨.rv64, 0x00450567, [(10, 0x80000200)], 10, 0x80000004, 0x80000204⟩,
    ⟨.rv64, 0xFFF58067, [(11, 0x80000102)], 0, 0, 0x80000100⟩,
    ⟨.rv64, 0x00B50863, [(10, 5), (11, 5)], 0, 0, 0x80000010⟩,
    ⟨.rv64, 0x00B50863, [(10, 5), (11, 0x100000005)], 0, 0, 0x80000004⟩,
    ⟨.rv64, 0xFEB51CE3, [(10, 1), (11, 2)], 0, 0, 0x7FFFFFF8⟩,
    ⟨.rv64, 0x00B54663, [(10, 0xFFFFFFFFFFFFFFFF), (11, 1)], 0, 0, 0x8000000C⟩,
    ⟨.rv64, 0x00B56663, [(10, 0xFFFFFFFFFFFFFFFF), (11, 1)], 0, 0, 0x80000004⟩,
    ⟨.rv64, 0x00B55663, [(10, 7), (11, 7)], 0, 0, 0x8000000C⟩,
    ⟨.rv64, 0x00B57663, [(10, 0x8000000000000000), (11, 0)], 0, 0, 0x8000000C⟩,
    ⟨.rv64, 0x00B57363, [(10, 0), (11, 0)], 0, 0, 0x80000006⟩, ⟨.rv64, 0x80000063, [], 0, 0, 0x7FFFF000⟩ ]
  ).all StepRow.holds = true := by decide

/-- V45 rows 1, 4, 7, 8, 11, 12, 13, 17, 18, 19, 20, 21, 24, 26, 27, 29, 32, 33. -/
theorem test_multiply_divide :
  (show List StepRow from
  [ ⟨.rv64, 0x02C58533, [(11, 0xFFFFFFFFFFFFFFFF), (12, 0xFFFFFFFFFFFFFFFF)], 10, 1, 0x80000004⟩,
    ⟨.rv64, 0x02C59533, [(11, 0x8000000000000000), (12, 0x8000000000000000)], 10, 0x4000000000000000, 0x80000004⟩,
    ⟨.rv64, 0x02C5A533, [(11, 1), (12, 0xFFFFFFFFFFFFFFFF)], 10, 0, 0x80000004⟩,
    ⟨.rv64, 0x02C5B533, [(11, 0xFFFFFFFFFFFFFFFF), (12, 0xFFFFFFFFFFFFFFFF)], 10, 0xFFFFFFFFFFFFFFFE, 0x80000004⟩,
    ⟨.rv32, 0x02C5A533, [(11, 0xFFFFFFFF), (12, 0xFFFFFFFF)], 10, 0xFFFFFFFF, 0x80000004⟩,
    ⟨.rv64, 0x02C5C533, [(11, 0xFFFFFFFFFFFFFFF9), (12, 2)], 10, 0xFFFFFFFFFFFFFFFD, 0x80000004⟩,
    ⟨.rv64, 0x02C5E533, [(11, 0xFFFFFFFFFFFFFFF9), (12, 2)], 10, 0xFFFFFFFFFFFFFFFF, 0x80000004⟩,
    ⟨.rv64, 0x02C5D533, [(11, 0x2A), (12, 0)], 10, 0xFFFFFFFFFFFFFFFF, 0x80000004⟩,
    ⟨.rv64, 0x02C5E533, [(11, 0xFFFFFFFFFFFFFFD6), (12, 0)], 10, 0xFFFFFFFFFFFFFFD6, 0x80000004⟩,
    ⟨.rv64, 0x02C5F533, [(11, 0x2A), (12, 0)], 10, 0x2A, 0x80000004⟩,
    ⟨.rv64, 0x02C5C533, [(11, 0x8000000000000000), (12, 0xFFFFFFFFFFFFFFFF)], 10, 0x8000000000000000, 0x80000004⟩,
    ⟨.rv64, 0x02C5E533, [(11, 0x8000000000000000), (12, 0xFFFFFFFFFFFFFFFF)], 10, 0, 0x80000004⟩,
    ⟨.rv32, 0x02C5C533, [(11, 0x80000000), (12, 0xFFFFFFFF)], 10, 0x80000000, 0x80000004⟩,
    ⟨.rv64, 0x02C5853B, [(11, 0xFFFFFFFF00000003), (12, 0xAAAAAAAA00000005)], 10, 0xF, 0x80000004⟩,
    ⟨.rv64, 0x02C5C53B, [(11, 0x80000000), (12, 0xFFFFFFFF)], 10, 0xFFFFFFFF80000000, 0x80000004⟩,
    ⟨.rv64, 0x02C5D53B, [(11, 0xFFFFFFFF), (12, 1)], 10, 0xFFFFFFFFFFFFFFFF, 0x80000004⟩,
    ⟨.rv64, 0x02C5E53B, [(11, 0xFFFFFFF9), (12, 2)], 10, 0xFFFFFFFFFFFFFFFF, 0x80000004⟩,
    ⟨.rv64, 0x02C5F53B, [(11, 0x80000001), (12, 0)], 10, 0xFFFFFFFF80000001, 0x80000004⟩ ]
  ).all StepRow.holds = true := by decide

/-- V49 rows 2, 20, 22, 28, 33, 35, 39, 43, 46, 49, 51, 52, 53, 54, 55, 57, 68, 81, 88. -/
theorem test_compressed_integer :
  (show List StepRow from
  [ ⟨.rv64, 0x1FE0, [(2, 0x80002000)], 8, 0x800023FC, 0x80000002⟩, ⟨.rv64, 0x0001, [], 0, 0, 0x80000002⟩,
    ⟨.rv64, 0x157D, [(10, 0)], 10, 0xFFFFFFFFFFFFFFFF, 0x80000002⟩,
    ⟨.rv64, 0x2505, [(10, 0x7FFFFFFF)], 10, 0xFFFFFFFF80000000, 0x80000002⟩,
    ⟨.rv32, 0x5501, [], 10, 0xFFFFFFE0, 0x80000002⟩, ⟨.rv64, 0x617D, [(2, 0x80002000)], 2, 0x800021F0, 0x80000002⟩,
    ⟨.rv64, 0x757D, [], 10, 0xFFFFFFFFFFFFF000, 0x80000002⟩,
    ⟨.rv64, 0x8105, [(10, 0x8000000000000001)], 10, 0x4000000000000000, 0x80000002⟩,
    ⟨.rv64, 0x8505, [(10, 0x8000000000000001)], 10, 0xC000000000000000, 0x80000002⟩,
    ⟨.rv64, 0x9941, [(10, 0x123456789ABCDEFF)], 10, 0x123456789ABCDEF0, 0x80000002⟩,
    ⟨.rv64, 0x8D0D, [(10, 3), (11, 5)], 10, 0xFFFFFFFFFFFFFFFE, 0x80000002⟩,
    ⟨.rv64, 0x8D2D, [(10, 0xFF00), (11, 0xFF0)], 10, 0xF0F0, 0x80000002⟩,
    ⟨.rv64, 0x8D4D, [(10, 0xFF00), (11, 0xFF0)], 10, 0xFFF0, 0x80000002⟩,
    ⟨.rv64, 0x8D6D, [(10, 0xFF00), (11, 0xFF0)], 10, 0xF00, 0x80000002⟩,
    ⟨.rv64, 0x9D0D, [(10, 0x100000000), (11, 1)], 10, 0xFFFFFFFFFFFFFFFF, 0x80000002⟩,
    ⟨.rv64, 0x9D2D, [(10, 0x7FFFFFFF), (11, 1)], 10, 0xFFFFFFFF80000000, 0x80000002⟩,
    ⟨.rv64, 0x1502, [(10, 0xF00000000000000F)], 10, 0xF00000000, 0x80000002⟩,
    ⟨.rv64, 0x852E, [(10, 1), (11, 0x123456789)], 10, 0x123456789, 0x80000002⟩,
    ⟨.rv64, 0x952A, [(10, 0x4000000000000001)], 10, 0x8000000000000002, 0x80000002⟩ ]
  ).all StepRow.holds = true := by decide

/-- V49 rows 26, 60, 63, 64, 65, 79, 84. -/
theorem test_compressed_control :
  (show List StepRow from
  [ ⟨.rv32, 0x3FF5, [], 1, 0x80000002, 0x7FFFFFFC⟩, ⟨.rv64, 0xB001, [], 0, 0, 0x7FFFF800⟩,
    ⟨.rv64, 0xC501, [(10, 0x100000000)], 0, 0, 0x80000002⟩, ⟨.rv64, 0xD101, [(10, 0)], 0, 0, 0x7FFFFF00⟩,
    ⟨.rv64, 0xED7D, [(10, 1)], 0, 0, 0x800000FE⟩, ⟨.rv64, 0x8082, [(1, 0x80000101)], 0, 0, 0x80000100⟩,
    ⟨.rv64, 0x9082, [(1, 0x80000300)], 1, 0x80000002, 0x80000300⟩ ]
  ).all StepRow.holds = true := by decide

/-- V43 rows 1, 3, 4, 5, 6, 7, 8, 10, 11. -/
theorem test_loads :
  (show List LoadRow from
  [ ⟨.rv64, 0x00758503, [(11, 0x80001000)], 8, 0x80001000, 0xF122334455667788, false, 10, 0xFFFFFFFFFFFFFFF1⟩,
    ⟨.rv64, 0x0075C503, [(11, 0x80001000)], 8, 0x80001000, 0xF122334455667788, false, 10, 0xF1⟩,
    ⟨.rv64, 0x00659503, [(11, 0x80001000)], 8, 0x80001000, 0xF122334455667788, false, 10, 0xFFFFFFFFFFFFF122⟩,
    ⟨.rv64, 0x0065D503, [(11, 0x80001000)], 8, 0x80001000, 0xF122334455667788, false, 10, 0xF122⟩,
    ⟨.rv64, 0x0045A503, [(11, 0x80001000)], 8, 0x80001000, 0xF122334455667788, false, 10, 0xFFFFFFFFF1223344⟩,
    ⟨.rv64, 0x0045E503, [(11, 0x80001000)], 8, 0x80001000, 0xF122334455667788, false, 10, 0xF1223344⟩,
    ⟨.rv64, 0x0005B503, [(11, 0x80001000)], 8, 0x80001000, 0xF122334455667788, false, 10, 0xF122334455667788⟩,
    ⟨.rv64, 0xFFC5A503, [(11, 0x80001008)], 8, 0x80001000, 0xF122334455667788, false, 10, 0xFFFFFFFFF1223344⟩,
    ⟨.rv64, 0x0005A583, [(11, 0x80001000)], 8, 0x80001000, 0xF122334455667788, false, 11, 0x55667788⟩ ]
  ).all LoadRow.holds = true := by decide

/-- V43 rows 22, 23, 24, 25, 26, 31. -/
theorem test_stores :
  (show List StoreRow from
  [ ⟨.rv64, 0x00C581A3, [(11, 0x80001000), (12, 0x1234AB)], [], 1, 0x80001003, 0xAB⟩,
    ⟨.rv64, 0x00C59123, [(11, 0x80001000), (12, 0x1234ABCD)], [], 2, 0x80001002, 0xABCD⟩,
    ⟨.rv64, 0x00C5A223, [(11, 0x80001000), (12, 0xAAAAAAAA01020304)], [], 4, 0x80001004, 0x1020304⟩,
    ⟨.rv64, 0x00C5B023, [(11, 0x80001000), (12, 0x102030405060708)], [], 8, 0x80001000, 0x102030405060708⟩,
    ⟨.rv64, 0x80C5A023, [(11, 0x80001800), (12, 0xDEADBEEF)], [], 4, 0x80001000, 0xDEADBEEF⟩,
    ⟨.rv64, 0x00C5A023, [(11, 0x800FFFFC), (12, 0x11223344)], [], 4, 0x800FFFFC, 0x11223344⟩ ]
  ).all StoreRow.holds = true := by decide

/-- V47 rows 1. -/
theorem test_fp_loads :
  (show List LoadRow from
  [ ⟨.rv64, 0x0045A507, [(11, 0x80001000)], 4, 0x80001004, 0xC0490FDB, true, 10, 0xFFFFFFFFC0490FDB⟩ ]
  ).all LoadRow.holds = true := by decide

/-- V48 rows 2. -/
theorem test_fp_double_loads :
  (show List LoadRow from
  [ ⟨.rv32, 0x0085B507, [(11, 0x80001000)], 8, 0x80001008, 0x400921FB54442D18, true, 10, 0x400921FB54442D18⟩ ]
  ).all LoadRow.holds = true := by decide

/-- V47 rows 5. -/
theorem test_fp_stores :
  (show List StoreRow from
  [ ⟨.rv64, 0x00B5A427, [(11, 0x80001000)], [(11, 0x123456783F800000)], 4, 0x80001008, 0x3F800000⟩ ]
  ).all StoreRow.holds = true := by decide

/-- V48 rows 5. -/
theorem test_fp_double_stores :
  (show List StoreRow from
  [ ⟨.rv32, 0x00B5B827, [(11, 0x80001000)], [(11, 0xFFFFFFFF3F800000)], 8, 0x80001010, 0xFFFFFFFF3F800000⟩ ]
  ).all StoreRow.holds = true := by decide

/-- V49 rows 6, 8, 11, 13, 71, 73, 75, 77. -/
theorem test_compressed_loads :
  (show List LoadRow from
  [ ⟨.rv32, 0x2588, [(11, 0x80001000)], 8, 0x80001008, 0x400921FB54442D18, true, 10, 0x400921FB54442D18⟩,
    ⟨.rv64, 0x41C8, [(11, 0x80001000)], 4, 0x80001004, 0x80000001, false, 10, 0xFFFFFFFF80000001⟩,
    ⟨.rv32, 0x61C8, [(11, 0x80001000)], 4, 0x80001004, 0x3F800000, true, 10, 0xFFFFFFFF3F800000⟩,
    ⟨.rv64, 0x7DE8, [(11, 0x80001000)], 8, 0x800010F8, 1, false, 10, 1⟩,
    ⟨.rv64, 0x307E, [(2, 0x80001000)], 8, 0x800011F8, 0x400921FB54442D18, true, 0, 0x400921FB54442D18⟩,
    ⟨.rv64, 0x557E, [(2, 0x80001000)], 4, 0x800010FC, 7, false, 10, 7⟩,
    ⟨.rv32, 0x6512, [(2, 0x80001000)], 4, 0x80001004, 0x40490FDB, true, 10, 0xFFFFFFFF40490FDB⟩,
    ⟨.rv64, 0x70FE, [(2, 0x80001000)], 8, 0x800011F8, 0x80000100, false, 1, 0x80000100⟩ ]
  ).all LoadRow.holds = true := by decide

/-- V49 rows 15, 16, 18, 19, 89, 91, 92, 94. -/
theorem test_compressed_stores :
  (show List StoreRow from
  [ ⟨.rv64, 0xA588, [(11, 0x80001000)], [(10, 0x400921FB54442D18)], 8, 0x80001008, 0x400921FB54442D18⟩,
    ⟨.rv64, 0xC1C8, [(11, 0x80001000), (10, 0xAAAAAAAA11223344)], [], 4, 0x80001004, 0x11223344⟩,
    ⟨.rv32, 0xE1C8, [(11, 0x80001000)], [(10, 0xFFFFFFFF3F800000)], 4, 0x80001004, 0x3F800000⟩,
    ⟨.rv64, 0xE588, [(11, 0x80001000), (10, 0x102030405060708)], [], 8, 0x80001008, 0x102030405060708⟩,
    ⟨.rv64, 0xA42A, [(2, 0x80001000)], [(10, 0x400921FB54442D18)], 8, 0x80001008, 0x400921FB54442D18⟩,
    ⟨.rv64, 0xDFAA, [(2, 0x80001000), (10, 0x55667788)], [], 4, 0x800010FC, 0x55667788⟩,
    ⟨.rv32, 0xE22A, [(2, 0x80001000)], [(10, 0xFFFFFFFF3F800000)], 4, 0x80001004, 0x3F800000⟩,
    ⟨.rv64, 0xFF86, [(2, 0x80001000), (1, 0x8000000080000000)], [], 8, 0x800011F8, 0x8000000080000000⟩ ]
  ).all StoreRow.holds = true := by decide

/-- V46 rows 18, 19, 20, 21, 22, 23, 24, 25, 26, 27. -/
theorem test_amo_words :
  (show List AtomicRow from
  [ ⟨.rv64, 0x08C5A52F, 0x11111111AABBCCDD, 8, 0xFFFFFFFF80000064, [], 0xFFFFFFFF80000064, 4, 0xAABBCCDD⟩,
    ⟨.rv64, 0x00C5A52F, 0x7FFFFFFF9C, 8, 0xFFFFFFFF80000064, [], 0xFFFFFFFF80000064, 4, 0x80000000⟩,
    ⟨.rv64, 0x20C5A52F, 0xFFFFFFFF, 8, 0xFFFFFFFF80000064, [], 0xFFFFFFFF80000064, 4, 0x7FFFFF9B⟩,
    ⟨.rv64, 0x60C5A52F, 0xF0, 8, 0xFFFFFFFF80000064, [], 0xFFFFFFFF80000064, 4, 0x60⟩,
    ⟨.rv64, 0x40C5A52F, 0xF00, 8, 0xFFFFFFFF80000064, [], 0xFFFFFFFF80000064, 4, 0x80000F64⟩,
    ⟨.rv64, 0x80C5A52F, 1, 8, 0xFFFFFFFF80000064, [], 0xFFFFFFFF80000064, 4, 0x80000064⟩,
    ⟨.rv64, 0xA0C5A52F, 1, 8, 0xFFFFFFFF80000064, [], 0xFFFFFFFF80000064, 4, 1⟩,
    ⟨.rv64, 0xC0C5A52F, 1, 8, 0xFFFFFFFF80000064, [], 0xFFFFFFFF80000064, 4, 1⟩,
    ⟨.rv64, 0xE0C5A52F, 1, 8, 0xFFFFFFFF80000064, [], 0xFFFFFFFF80000064, 4, 0x80000064⟩,
    ⟨.rv32, 0x00C5A52F, 0xFFFFFFFF, 4, 0, [], 0, 4, 0xFFFFFFFF⟩ ]
  ).all AtomicRow.holds = true := by decide

/-- V46 rows 28, 29, 30, 31, 32, 33, 34, 35, 36. -/
theorem test_amo_doublewords :
  (show List AtomicRow from
  [ ⟨.rv64, 0x08C5B52F, 0x102030405060708, 8, 0xFFFFFFFF80000064, [], 0xFFFFFFFF80000064, 8, 0x102030405060708⟩,
    ⟨.rv64, 0x00C5B52F, 0x7FFFFF9C, 8, 0xFFFFFFFF80000064, [], 0xFFFFFFFF80000064, 8, 0⟩,
    ⟨.rv64, 0x20C5B52F, 0xFFFFFFFFFFFFFFFF, 8, 0xFFFFFFFF80000064, [], 0xFFFFFFFF80000064, 8, 0x7FFFFF9B⟩,
    ⟨.rv64, 0x60C5B52F, 0xFFFFFFFF, 8, 0xFFFFFFFF80000064, [], 0xFFFFFFFF80000064, 8, 0x80000064⟩,
    ⟨.rv64, 0x40C5B52F, 0x1B, 8, 0xFFFFFFFF80000064, [], 0xFFFFFFFF80000064, 8, 0xFFFFFFFF8000007F⟩,
    ⟨.rv64, 0x80C5B52F, 0xFFFFFFFFFFFFFFFE, 8, 0xFFFFFFFFFFFFFFFF, [], 0xFFFFFFFFFFFFFFFF, 8, 0xFFFFFFFFFFFFFFFE⟩,
    ⟨.rv64, 0xA0C5B52F, 0xFFFFFFFFFFFFFFFE, 8, 0xFFFFFFFFFFFFFFFF, [], 0xFFFFFFFFFFFFFFFF, 8, 0xFFFFFFFFFFFFFFFF⟩,
    ⟨.rv64, 0xC0C5B52F, 5, 8, 0xFFFFFFFFFFFFFFFF, [], 0xFFFFFFFFFFFFFFFF, 8, 5⟩,
    ⟨.rv64, 0xE0C5B52F, 5, 8, 0xFFFFFFFFFFFFFFFF, [], 0xFFFFFFFFFFFFFFFF, 8, 0xFFFFFFFFFFFFFFFF⟩ ]
  ).all AtomicRow.holds = true := by decide

/-- V46 rows 9, 10, 11, 12, 13, 14. -/
theorem test_store_conditional :
  (show List AtomicRow from
  [ ⟨.rv64, 0x18C5A52F, 0x77, 8, 0xFFFFFFFF80000064, [(0x80001000, 0x80000064)], 0, 4, 0x77⟩,
    ⟨.rv64, 0x18C5A52F, 0x77, 8, 0xFFFFFFFF80000064, [(0x80001000, 0x80000065)], 1, 4, 0x80000064⟩,
    ⟨.rv64, 0x18C5A52F, 0x77, 8, 0xFFFFFFFF80000064, [(0x80001004, 0xFFFFFFFF)], 1, 4, 0x80000064⟩,
    ⟨.rv64, 0x18C5A52F, 0x77, 8, 0xFFFFFFFF80000064, [], 1, 4, 0x80000064⟩,
    ⟨.rv64, 0x18C5B52F, 0x102030405060708, 8, 0xFFFFFFFF80000064, [(0x80001000, 0xFFFFFFFF80000064)], 0, 8, 0x102030405060708⟩,
    ⟨.rv64, 0x18C5A52F, 0x77, 8, 0xFFFFFFFF80000064, [(0x80001000, 0xFFFFFFFF80000064)], 0, 4, 0x77⟩ ]
  ).all AtomicRow.holds = true := by decide

/-- V47 rows 12, 13, 16, 24, 28, 31, 34, 40, 41, 42, 44. -/
theorem test_single_arithmetic :
  (show List FpRow from
  [ ⟨.rv64, 0x00C5F553, 0, [(11, 0x3F800000), (12, 0xFFFFFFFF3F800000)], true, 0xFFFFFFFF7FC00000, 0⟩,
    ⟨.rv64, 0x00C58553, 0, [(11, 0xFFFFFFFF3F800000), (12, 0xFFFFFFFF33800000)], true, 0xFFFFFFFF3F800000, 1⟩,
    ⟨.rv64, 0x00C5A553, 0, [(11, 0xFFFFFFFF3F800000), (12, 0xFFFFFFFFBF800000)], true, 0xFFFFFFFF80000000, 0⟩,
    ⟨.rv64, 0x08C5F553, 0, [(11, 0xFFFFFFFF3F800000), (12, 0xFFFFFFFF40000000)], true, 0xFFFFFFFFBF800000, 0⟩,
    ⟨.rv64, 0x10C5F553, 0, [(11, 0xFFFFFFFF00000001), (12, 0xFFFFFFFF3F000000)], true, 0xFFFFFFFF00000000, 3⟩,
    ⟨.rv64, 0x18C5F553, 0, [(11, 0xFFFFFFFF3F800000), (12, 0xFFFFFFFF80000000)], true, 0xFFFFFFFFFF800000, 8⟩,
    ⟨.rv64, 0x5805F553, 0, [(11, 0xFFFFFFFF40000000)], true, 0xFFFFFFFF3FB504F3, 1⟩,
    ⟨.rv64, 0x68C58543, 0, [(11, 0xFFFFFFFF3F800001), (12, 0xFFFFFFFF3F800001), (13, 0xFFFFFFFFBF800002)], true, 0xFFFFFFFF28800000, 0⟩,
    ⟨.rv64, 0x68C5F547, 0, [(11, 0xFFFFFFFF40000000), (12, 0xFFFFFFFF40400000), (13, 0xFFFFFFFF3F800000)], true, 0xFFFFFFFF40A00000, 0⟩,
    ⟨.rv64, 0x68C5F54B, 0, [(11, 0xFFFFFFFF40000000), (12, 0xFFFFFFFF40400000), (13, 0xFFFFFFFF3F800000)], true, 0xFFFFFFFFC0A00000, 0⟩,
    ⟨.rv64, 0x68C5854F, 0, [(11, 0xFFFFFFFF3F800000), (12, 0xFFFFFFFF00000000), (13, 0xFFFFFFFF00000000)], true, 0xFFFFFFFF80000000, 0⟩ ]
  ).all FpRow.holds = true := by decide +kernel

/-- V47 rows 46, 48, 49, 53, 57, 62, 65, 67, 73, 112, 113. -/
theorem test_single_bits :
  (show List FpRow from
  [ ⟨.rv64, 0x20C58553, 0, [(11, 0xFFFFFFFF3F800000), (12, 0xFFFFFFFF80000000)], true, 0xFFFFFFFFBF800000, 0⟩,
    ⟨.rv64, 0x20B59553, 0, [(11, 0xFFFFFFFF7F800001)], true, 0xFFFFFFFFFF800001, 0⟩,
    ⟨.rv64, 0x20B5A553, 0, [(11, 0xFFFFFFFFC0400000)], true, 0xFFFFFFFF40400000, 0⟩,
    ⟨.rv64, 0x28C58553, 0, [(11, 0xFFFFFFFF00000000), (12, 0xFFFFFFFF80000000)], true, 0xFFFFFFFF80000000, 0⟩,
    ⟨.rv64, 0x28C59553, 0, [(11, 0xFFFFFFFF7F800001), (12, 0xFFFFFFFF40000000)], true, 0xFFFFFFFF40000000, 0x10⟩,
    ⟨.rv64, 0xA0C5A553, 0, [(11, 0xFFFFFFFF7FC00000), (12, 0xFFFFFFFF7FC00000)], false, 0, 0⟩,
    ⟨.rv64, 0xA0C59553, 0, [(11, 0xFFFFFFFF3F800000), (12, 0xFFFFFFFF7FC00000)], false, 0, 0x10⟩,
    ⟨.rv64, 0xA0C58553, 0, [(11, 0xFFFFFFFF40000000), (12, 0xFFFFFFFF40000000)], false, 1, 0⟩,
    ⟨.rv64, 0xE0059553, 0, [(11, 0xFFFFFFFF80000001)], false, 4, 0⟩,
    ⟨.rv64, 0xE0058553, 0, [(11, 0x123456783F800000)], false, 0x3F800000, 0⟩,
    ⟨.rv64, 0xF0058553, 0x12345678C0490FDB, [], true, 0xFFFFFFFFC0490FDB, 0⟩ ]
  ).all FpRow.holds = true := by decide

/-- V47 rows 83, 94, 96, 98, 102, 105, 107, 108. -/
theorem test_single_conversions :
  (show List FpRow from
  [ ⟨.rv64, 0xC0058553, 0, [(11, 0xFFFFFFFFC0200000)], false, 0xFFFFFFFFFFFFFFFE, 1⟩,
    ⟨.rv64, 0xC015A553, 0, [(11, 0xFFFFFFFFBF000000)], false, 0, 0x10⟩,
    ⟨.rv64, 0xC0258553, 0, [(11, 0xFFFFFFFF3FC00000)], false, 2, 1⟩,
    ⟨.rv64, 0xC0359553, 0, [(11, 0xFFFFFFFF5F800000)], false, 0xFFFFFFFFFFFFFFFF, 0x10⟩,
    ⟨.rv64, 0xD0058553, 0x7FFFFFFF, [], true, 0xFFFFFFFF4F000000, 1⟩,
    ⟨.rv64, 0xD0158553, 0xFFFFFFFFFFFFFFFE, [], true, 0xFFFFFFFF4F800000, 1⟩,
    ⟨.rv64, 0xD0258553, 0x7FFFFFFFFFFFFFFF, [], true, 0xFFFFFFFF5F000000, 1⟩,
    ⟨.rv64, 0xD0358553, 0xFFFFFFFFFFFFFFFF, [], true, 0xFFFFFFFF5F800000, 1⟩ ]
  ).all FpRow.holds = true := by decide

/-- V48 rows 8, 11, 13, 14, 16, 18, 19, 20, 21. -/
theorem test_double_arithmetic :
  (show List FpRow from
  [ ⟨.rv64, 0x02C5F553, 0, [(11, 0x7FEFFFFFFFFFFFFF), (12, 0x7FEFFFFFFFFFFFFF)], true, 0x7FF0000000000000, 5⟩,
    ⟨.rv64, 0x0AC5F553, 0, [(11, 0x3FF0000000000000), (12, 0x4008000000000000)], true, 0xC000000000000000, 0⟩,
    ⟨.rv64, 0x12C5F553, 0, [(11, 1), (12, 0x3FE0000000000000)], true, 0, 3⟩,
    ⟨.rv64, 0x1AC5F553, 0, [(11, 0x3FF0000000000000), (12, 0x4008000000000000)], true, 0x3FD5555555555555, 1⟩,
    ⟨.rv64, 0x5A05F553, 0, [(11, 0x4000000000000000)], true, 0x3FF6A09E667F3BCD, 1⟩,
    ⟨.rv64, 0x6AC5F543, 0, [(11, 0x4000000000000000), (12, 0x4008000000000000), (13, 0x3FF0000000000000)], true, 0x401C000000000000, 0⟩,
    ⟨.rv64, 0x6AC5F547, 0, [(11, 0x4000000000000000), (12, 0x4008000000000000), (13, 0x3FF0000000000000)], true, 0x4014000000000000, 0⟩,
    ⟨.rv64, 0x6AC5F54B, 0, [(11, 0x4000000000000000), (12, 0x4008000000000000), (13, 0x3FF0000000000000)], true, 0xC014000000000000, 0⟩,
    ⟨.rv64, 0x6AC5F54F, 0, [(11, 0x4000000000000000), (12, 0x4008000000000000), (13, 0x3FF0000000000000)], true, 0xC01C000000000000, 0⟩ ]
  ).all FpRow.holds = true := by decide +kernel

/-- V48 rows 23, 25, 26, 28, 29, 32, 34, 35, 37, 69, 71. -/
theorem test_double_bits :
  (show List FpRow from
  [ ⟨.rv64, 0x22C58553, 0, [(11, 0x3FF0000000000000), (12, 0x8000000000000000)], true, 0xBFF0000000000000, 0⟩,
    ⟨.rv64, 0x22B59553, 0, [(11, 0x3FF0000000000000)], true, 0xBFF0000000000000, 0⟩,
    ⟨.rv64, 0x22B5A553, 0, [(11, 0xC008000000000000)], true, 0x4008000000000000, 0⟩,
    ⟨.rv64, 0x2AC58553, 0, [(11, 0), (12, 0x8000000000000000)], true, 0x8000000000000000, 0⟩,
    ⟨.rv64, 0x2AC59553, 0, [(11, 0x7FF0000000000001), (12, 0x7FF8000000000000)], true, 0x7FF8000000000000, 0x10⟩,
    ⟨.rv64, 0xA2C5A553, 0, [(11, 0x7FF8000000000000), (12, 0x3FF0000000000000)], false, 0, 0⟩,
    ⟨.rv64, 0xA2C59553, 0, [(11, 0x7FF8000000000000), (12, 0x4000000000000000)], false, 0, 0x10⟩,
    ⟨.rv64, 0xA2C58553, 0, [(11, 0x4000000000000000), (12, 0x4000000000000000)], false, 1, 0⟩,
    ⟨.rv64, 0xE2059553, 0, [(11, 0x8000000000000001)], false, 4, 0⟩,
    ⟨.rv64, 0xE2058553, 0, [(11, 0x400921FB54442D18)], false, 0x400921FB54442D18, 0⟩,
    ⟨.rv64, 0xF2058553, 0x400921FB54442D18, [], true, 0x400921FB54442D18, 0⟩ ]
  ).all FpRow.holds = true := by decide

/-- V48 rows 44, 48, 53, 55, 58, 61, 63, 64, 65, 67. -/
theorem test_double_conversions :
  (show List FpRow from
  [ ⟨.rv64, 0x40158553, 0, [(11, 0x7FEFFFFFFFFFFFFF)], true, 0xFFFFFFFF7F800000, 5⟩,
    ⟨.rv64, 0x42058553, 0, [(11, 0xFFFFFFFF7F800001)], true, 0x7FF8000000000000, 0x10⟩,
    ⟨.rv64, 0xC2058553, 0, [(11, 0x41DFFFFFFFE00000)], false, 0x7FFFFFFF, 0x10⟩,
    ⟨.rv64, 0xC2159553, 0, [(11, 0x41EFFFFFFFE00000)], false, 0xFFFFFFFFFFFFFFFF, 0⟩,
    ⟨.rv64, 0xC2259553, 0, [(11, 0x43E0000000000000)], false, 0x7FFFFFFFFFFFFFFF, 0x10⟩,
    ⟨.rv64, 0xC235B553, 0, [(11, 0xBFE0000000000000)], false, 0, 1⟩,
    ⟨.rv32, 0xD2058553, 0x7FFFFFFF, [], true, 0x41DFFFFFFFC00000, 0⟩,
    ⟨.rv64, 0xD2158553, 0xFFFFFFFFFFFFFFFE, [], true, 0x41EFFFFFFFC00000, 0⟩,
    ⟨.rv64, 0xD2258553, 0x7FFFFFFFFFFFFFFF, [], true, 0x43E0000000000000, 1⟩,
    ⟨.rv64, 0xD2358553, 0xFFFFFFFFFFFFFFFF, [], true, 0x43F0000000000000, 1⟩ ]
  ).all FpRow.holds = true := by decide

/-! ### Modes, traps, CSRs, interrupts, translation, protection -/

/-- `mtvec` and `stvec` of 97_test_vectors_traps_mem.md. -/
def withVectors (s : State) : State := { s with mtvec := 0x80000100, stvec := 0x80000200 }

/-- V40.7, V40.8, V60.3, V60.15, V60.17: what the front half raises. -/
theorem test_front_end_traps :
    (let t := after 0x7F (withVectors (start .rv64 []));
      t.pc = 0x80000100 ∧ t.mcause = 2 ∧ t.mtval = 0x7F ∧ t.mepc = 0x80000000 ∧ t.minstret = 0 ∧ t.mcycle = 1)
    ∧ (let t := after 0x8000 (withVectors (start .rv64 [])); t.mcause = 2 ∧ t.mtval = 0x8000)
    ∧ (after 0xFFFFFFFF { start .rv64 [] with mtvec := 0x80000101 }).pc = 0x80000108
    ∧ (let t := after 0x00100513 { withVectors (start .rv64 []) with pc := 0x80000001 };
      t.mcause = 0 ∧ t.mtval = 0x80000001 ∧ t.mepc = 0x80000001 ∧ readX 10 t = 0)
    ∧ (let t := after 0x13 { withVectors (start .rv64 []) with pc := 0x1000 }; t.mcause = 1 ∧ t.mtval = 0x1000) := by
  decide

/-- V43.12, V43.15, V43.17, V43.27, V43.32: the order of the checks of an access and the trap values. -/
theorem test_access_traps :
    (let t := after 0x0025A503 (start .rv64 [(11, 0x80001000)]); t.mcause = 4 ∧ t.mtval = 0x80001002)
    ∧ (let t := after 0x0005A503 (start .rv64 [(11, 0x1000)]); t.mcause = 5 ∧ t.mtval = 0x1000)
    ∧ (let t := after 0x0015A503 (start .rv64 [(11, 0x1000)]); t.mcause = 4 ∧ t.mtval = 0x1001)
    ∧ (let t := after 0x00C590A3 (start .rv64 [(11, 0x80001000), (12, 0xFFFF)]); t.mcause = 6 ∧ readByte t.mem 0x80001001 = 0)
    ∧ (let t := after 0x00C5A223 (start .rv64 [(11, 0x800FFFFC), (12, 1)]); t.mcause = 7 ∧ t.mtval = 0x80100000) := by
  decide

/-- V44.5, V44.7, V44.10, V44.11, V49.85: ECALL by mode and delegation, EBREAK in both builds. -/
theorem test_calls_and_breaks :
    (let t := after 0x73 { inMode .supervisor (start .rv64 []) with mtvec := 0x80000400 };
      t.mcause = 9 ∧ t.mstatus = 0xA00000800 ∧ t.priv = .machine ∧ t.pc = 0x80000400 ∧ t.mtval = 0)
    ∧ (let t := after 0x73 { inMode .user (start .rv64 []) with
          medeleg := 0x100, stvec := 0x80000800, mstatus := 0xA00000002 };
      t.scause = 8 ∧ t.mstatus = 0xA00000020 ∧ t.priv = .supervisor ∧ t.pc = 0x80000800 ∧ t.sepc = 0x80000000)
    ∧ (let t := after 0x00100073 (start .rv64 [(10, 0x2A)]);
      t.runState = .halt ∧ t.haltPc = 0x80000000 ∧ t.haltCode = 0x2A ∧ t.pc = 0x80000004)
    ∧ (let s := start .rv64 [];
      let t := after 0x00100073 { s with cfg := { s.cfg with haltOnEbreak := false } };
      t.mcause = 3 ∧ t.mtval = 0x80000000 ∧ t.runState = .running)
    ∧ (after 0x9002 (start .rv64 [(10, 7)])).pc = 0x80000002 := by decide

/-- V44.12, V44.14, V44.16, V44.19, V44.20, V44.21: the trap returns. -/
theorem test_trap_returns :
    (let t := after 0x30200073 { start .rv64 [] with mstatus := 0xA00000880, mepc := 0x80001000 };
      t.pc = 0x80001000 ∧ t.mstatus = 0xA00000088 ∧ t.priv = .supervisor)
    ∧ (let t := after 0x30200073 { start .rv64 [] with mstatus := 0xA00001888, mepc := 0x80000101 };
      t.pc = 0x80000101 ∧ t.mstatus = 0xA00000088 ∧ t.priv = .machine)
    ∧ (let t := after 0x30200073 (inMode .supervisor (start .rv64 [])); t.mcause = 2 ∧ t.mtval = 0x30200073)
    ∧ (let t := after 0x10200073 { inMode .supervisor (start .rv64 []) with mstatus := 0xA00020120, sepc := 0x80002000 };
      t.pc = 0x80002000 ∧ t.mstatus = 0xA00000022 ∧ t.priv = .supervisor)
    ∧ (let t := after 0x10200073 { start .rv64 [] with mstatus := 0xA000219A8, sepc := 0x80002000 };
      t.mstatus = 0xA000018AA ∧ t.priv = .supervisor)
    ∧ (after 0x10200073 (inMode .user (start .rv64 []))).mcause = 2 := by decide

/-- V44.1, V44.3, V44.24, V44.26, V44.27: fences and WFI; the icache line of the flushing step itself is filled after
it (40_step.md rule R427). -/
theorem test_fences :
    (let t := after 0x0FF0000F (start .rv64 [(5, 3)]); t.minstret = 1 ∧ t.x = (start .rv64 [(5, 3)]).x)
    ∧ (after 0x0000100F { start .rv64 [] with icache := [(4, ⟨4, 0x13⟩)] }).icache = [(0x80000000, ⟨4, 0x100F⟩)]
    ∧ (after 0x10500073 (inMode .user (start .rv64 []))).minstret = 1
    ∧ (after 0x12B50073 { start .rv64 [(10, 0x1000), (11, 1)] with icache := [(4, ⟨4, 0x13⟩)] }).icache
      = [(0x80000000, ⟨4, 0x12B50073⟩)]
    ∧ (after 0x12000073 (inMode .user (start .rv64 []))).mtval = 0x12000073 := by decide

/-- V44C.3, V44C.15, V44C.17, V44C.20, V44C.21, V44C.30, V44C.49, V44C.54, V44C.55, V44C.7. -/
theorem test_csr_instructions :
    (let t := after 0x34051573 { start .rv64 [(10, 0x1111)] with mscratch := 0x2222 };
      readX 10 t = 0x2222 ∧ t.mscratch = 0x1111)
    ∧ (after 0x30029073 (start .rv64 [(5, 0xFFFFFFFFFFFFFFFF)])).mstatus = 0x8000000A000E79AA
    ∧ (after 0x30029073 { start .rv64 [(5, 0x1000)] with mstatus := 0xA00000800 }).mstatus = 0xA00000800
    ∧ (let t := after 0x30047573 { start .rv64 [] with mstatus := 0xA00000088 };
      readX 10 t = 0xA00000088 ∧ t.mstatus = 0xA00000080)
    ∧ (after 0x3002B073 { start .rv64 [(5, 0x6000)] with mstatus := 0x8000000A00006000 }).mstatus = 0xA00000000
    ∧ (after 0x30129073 (start .rv64 [(5, 0x800000000014110D)])).misa = 0x8000000000141105
    ∧ (after 0x18029073 (start .rv64 [(5, 0x8FFFF00000080010)])).satp = 0x8000000000080010
    ∧ csrRead (.pmpcfg 0) (after 0x3A029073 (start .rv64 [(5, 0xFFFFFFFFFFFFFFFF)])) = 0x9F9F9F9F9F9F9F9F
    ∧ (after 0x3A129073 (start .rv64 [(5, 1)])).mcause = 2
    ∧ (let t := after 0xF142A573 (start .rv64 [(10, 0x55)]); readX 10 t = 0x55 ∧ t.mtval = 0xF142A573) := by
  decide +kernel

/-- V40.9, V40.10: a write of a counter is not followed by its increment. -/
theorem test_counter_writes :
    (let t := after 0xB0259073 (start .rv64 [(11, 0x64)]); t.minstret = 0x64 ∧ t.mcycle = 1)
    ∧ (let t := after 0xB0059073 (start .rv64 [(11, 0x64)]); t.minstret = 1 ∧ t.mcycle = 0x64) := by decide

/-- V44C.59, V44C.60: `stimecmp` against an uptime of 0x2000; 60_exceptions.md rule R906: the deadline fires later. -/
theorem test_timer :
    (after 0x14D29073 { start .rv64 [(5, 0x1000)] with uptime := 0x2000 }).mip = 0x20
    ∧ (let t := after 0x14D29073 { start .rv64 [(5, 0x3000)] with uptime := 0x2000, mip := 0x20 };
      t.mip = 0 ∧ t.timerDeadline = some 0x3000
      ∧ (beginStep { quiet with advance := 0x1000, timerWaits := false } t).mip = 0x20
      ∧ (beginStep { quiet with advance := 0xFFF, timerWaits := false } t).mip = 0) := by decide

/-- V60.21, V60.25, V60.27, V60.23, V60.31: which interrupt is taken, and where. -/
theorem test_interrupts :
    (let t := after 0x00100513 { withVectors (start .rv64 []) with mstatus := 0xA00000008, mip := 0x880, mie := 0x888 };
      readX 10 t = 0 ∧ t.mcause = 0x800000000000000B ∧ t.mstatus = 0xA00001880 ∧ t.minstret = 0 ∧ t.mip = 0x880)
    ∧ (let t := after 0x00100513 { withVectors (inMode .supervisor (start .rv64 [])) with
          mip := 0x80, mie := 0x80, mideleg := 0x222 };
      t.mcause = 0x8000000000000007 ∧ t.mstatus = 0xA00000800 ∧ t.priv = .machine)
    ∧ (let t := after 0x00100513 { withVectors (inMode .supervisor (start .rv64 [])) with
          mstatus := 0xA00000002, mip := 0x222, mie := 0x222, mideleg := 0x222 };
      t.scause = 0x8000000000000009 ∧ t.mstatus = 0xA00000120 ∧ t.pc = 0x80000200)
    ∧ readX 10 (after 0x00100513 { withVectors (start .rv64 []) with
        mstatus := 0xA0000000A, mip := 0x20, mie := 0x20, mideleg := 0x222 }) = 1
    ∧ (after 0x00100513 { start .rv64 [] with
        mtvec := 0x80000101, mstatus := 0xA00000008, mip := 0x80, mie := 0x80 }).pc = 0x8000011C := by decide

/-- 40_step.md rule R435, 60_exceptions.md rule R905: a line set before a step is seen by its scan. -/
theorem test_lines_arrive :
    (after 0x00100513 { start .rv64 [] with
        mtvec := 0x80000100, mstatus := 0xA00000008, mie := 0x800
        env := [{ quiet with lines := [(.machineExternal, true)] }] }).mcause = 0x800000000000000B := by decide

/-- 40_step.md rule R420: what other agents do during a step. The data access of `lw x10, 0(x11)` sees every store; the
fetch sees one at its own place and not a later one; a line moves after the poll point. -/
theorem test_arrivals_during_step :
    let hart (lates : List (Nat × Host.Cell)) (lines : List (Irq × Bool)) : State :=
      { withVectors (start .rv64 [(11, 0x80001000)]) with
        mstatus := 0xA00000008, mie := 0x800, env := [{ quiet with lateWrites := lates, lateLines := lines }] }
    readX 10 (after 0x0005A503 (hart [(17, (0x80001000, 7))] [])) = 7
    ∧ (let t := after 0x00100513 (hart [(6, (0x80000002, 0x20))] []);
      readX 10 t = 2 ∧ readByte t.mem 0x80000002 = 0x20)
    ∧ (let t := after 0x00100513 (hart [(12, (0x80000002, 0x20))] []);
      readX 10 t = 1 ∧ readByte t.mem 0x80000002 = 0x20 ∧ t.former = [])
    ∧ (let t := after 0x00100513 (hart [] [(.machineExternal, true)]); readX 10 t = 1 ∧ t.mip = 0x800) := by decide

/-- Part of the Sv39 image of 97_test_vectors_traps_mem.md section 2. -/
def sv39Image (s : State) : State :=
  let put (a : Nat) (v : Word) (s : State) : State := withMem 8 a v s
  put 0x80010000 0x20004401 (put 0x80010008 0x4000001 (put 0x80010010 0x2000000F (put 0x80011000 0x20004801
    (put 0x80011008 0x20000007 (put 0x80011010 0x2000040F (put 0x80012008 0x20008005 (put 0x80012010 0x20008007
      (put 0x80012018 0x20008003 (put 0x80012020 0x20008017 (put 0x80012028 0x20008001
        (put 0x80020000 0x1122334412345678 s)))))))))))

/-- A Supervisor-mode hart under the image. -/
def paged (regs : List (Reg × Word)) : State :=
  { sv39Image (inMode .supervisor (start .rv64 regs)) with satp := 0x8000000000080010, mtvec := 0x80000100 }

/-- V20.1 and the rows of rules R235 to R240: a three-level walk, a 2 MiB leaf, and the faults in their order. -/
theorem test_sv39 :
    readX 10 (after 0x0005A503 (paged [(11, 0x2000)])) = 0x12345678
    ∧ readX 10 (after 0x0005A503 (paged [(11, 0x220000)])) = 0x12345678
    ∧ (after 0x0005A503 (paged [(11, 0x1000)])).mcause = 13
    ∧ (after 0x0005A503 (paged [(11, 0x4000)])).mcause = 13
    ∧ readX 10 (after 0x0005A503 { paged [(11, 0x4000)] with mstatus := 0xA00040000 }) = 0x12345678
    ∧ (after 0x0005A503 (paged [(11, 0x5000)])).mcause = 13
    ∧ (after 0x0005A503 (paged [(11, 0x400000)])).mcause = 13
    ∧ (after 0x00C5A023 (paged [(11, 0x3000)])).mcause = 7
    ∧ (after 0x0005A503 (paged [(11, 0x40000000)])).mcause = 5
    ∧ (after 0x0005A503 (paged [(11, 0x8000000000)])).mcause = 13 := by decide +kernel

/-- 20_memory.md rule R217: the exception of a parcel by what fails, and the parcel's own address as trap value. -/
theorem test_fetch_traps :
    let at_ (pc : Word) (s : State) : State := match step { s with pc := pc } with | .next t => t | _ => s
    (let t := at_ 0x1000 (paged []); t.mcause = 12 ∧ t.mtval = 0x1000 ∧ t.mepc = 0x1000)
    ∧ (let t := at_ 0x40000000 (paged []); t.mcause = 1 ∧ t.mtval = 0x40000000)
    ∧ (let t := at_ 0x80000000 { start .rv64 [] with priv := .supervisor }; t.mcause = 1 ∧ t.mtval = 0x80000000)
    ∧ (let t := at_ 0x800FFFFE (withMem 2 0x800FFFFE 0x0003 (start .rv64 []));
      t.mcause = 1 ∧ t.mtval = 0x80100000 ∧ t.mepc = 0x800FFFFE) := by decide +kernel

/-- V20.43, V20.45, V20.48, V20.50, V20.54, V20.56: the PMP. -/
theorem test_pmp :
    let hart (cfg0 cfg1 cfg2 : BitVec 8) (addr0 addr1 addr2 : Word) (p : Priv) : State :=
      let s := withMem 4 0x80020000 0x12345678 (start .rv64 [(11, 0x80020000)])
      { s with
        priv := p
        pmpcfg := ((s.pmpcfg.set 0 cfg0).set 1 cfg1).set 2 cfg2
        pmpaddr := ((s.pmpaddr.set 0 addr0).set 1 addr1).set 2 addr2 }
    (after 0x0005A503 (hart 0 0 0 0 0 0 .supervisor)).mcause = 1
    ∧ readX 10 (after 0x0005A503 (hart 0x0F 0 0 0x20040000 0 0 .supervisor)) = 0x12345678
    ∧ readX 10 (after 0x0005A503 (hart 0x1C 0x11 0 0x200001FF 0x20008000 0 .supervisor)) = 0x12345678
    ∧ (after 0x0005B503 (hart 0x1C 0x11 0 0x200001FF 0x20008000 0 .supervisor)).mcause = 5
    ∧ readX 10 (after 0x0005A503 (hart 0x1C 0 0x0B 0x200001FF 0x20008000 0x20008400 .supervisor)) = 0x12345678
    ∧ readX 10 (after 0x0005A503 (hart 0x98 0 0 0x3FFFFFFFFFFFFF 0 0 .machine)) = 0x12345678 := by decide

/-- V46.1, V46.7, V46.15, V46.37: LR, its ordering bits, a misaligned SC, an AMO whose registers are all one. -/
theorem test_reservations :
    (let t := after 0x1005A52F (withMem 8 0x80001000 0xFFFFFFFF80000064 (start .rv64 [(11, 0x80001004)]));
      readX 10 t = 0xFFFFFFFFFFFFFFFF ∧ t.resv = [(0x80001004, 0xFFFFFFFF)])
    ∧ (after 0x1605A52F (withMem 8 0x80001000 0xFFFFFFFF80000064 (start .rv64 [(11, 0x80001000)]))).resv
      = [(0x80001000, 0x80000064)]
    ∧ (let t := after 0x18C5A52F { start .rv64 [(11, 0x80001001)] with resv := [(0x80001000, 1)] };
      t.mcause = 6 ∧ t.resv = [(0x80001000, 1)])
    ∧ (let t := after 0x00B5A5AF (withMem 4 0x80001000 1 (start .rv64 [(11, 0x80001000)]));
      readX 11 t = 1 ∧ readBytes t.mem 0x80001000 4 = 0x80001001) := by decide

/-- V47.18, V47.20, V47.22, V47.69: the guards, and a flag that accrues although `rd` is `x0`. -/
theorem test_fp_guards :
    (let t := after 0x00C5D553 (withF [] (start .rv64 [])); t.mcause = 2 ∧ t.mtval = 0xC5D553)
    ∧ (after 0x00C5F553 { withF [] (start .rv64 []) with fcsr := 0xA0 }).mcause = 2
    ∧ (after 0x00C5F553 (start .rv64 [])).mcause = 2
    ∧ (let t := after 0xA0C58053 (withF [(11, 0xFFFFFFFF7FC00000), (12, 0xFFFFFFFF3F800000)] (start .rv64 []));
      t.fcsr = 0x10 ∧ t.mstatus = 0x8000000A00006000) := by decide

/-- A line of the icache hides what memory holds until FENCE.I (20_memory.md rules R261, R263). -/
theorem test_icache_line :
    let s := { (start .rv64 []).withFetchWord 32 0x00100513 with icache := [(0x80000000, ⟨4, 0x00200513⟩)] }
    (match step s with | .next t => readX 10 t | _ => 0) = 2
    ∧ (match step { s with env := [{ quiet with useIcache := false }] } with | .next t => readX 10 t | _ => 0) = 1 := by
  decide

/-- `construct` gives an Idle hart, which does not step (10_state.md rule R121, 40_step.md rule R433); `reset` starts
it (70_reset_and_hazards.md rule R930); a breakpoint stops `run` before its instruction (40_step.md rule R434). -/
theorem test_host_calls :
    (match step (construct Build.default State.reset) with | .refused .hartNotRunning => true | _ => false) = true
    ∧ (hostReset 0x80000000 (construct Build.default State.reset)).runState = .running
    ∧ (match runLoop [0x80000000] 3 ((start .rv64 []).withFetchWord 32 0x00100513) with
        | .next t => decide (t.runState = .breakpoint ∧ readX 10 t = 0)
        | _ => false) = true
    ∧ getRegisterByName "a0" (start .rv64 [(10, 7)]) = some 7 ∧ getRegisterByName "x10" (start .rv64 [(10, 7)]) = some 7
    ∧ getRegisterByName "q0" (start .rv64 []) = none ∧ getPc (start .rv64 []) = 0x80000000
    ∧ getGpr 10 (start .rv64 [(10, 7)]) = 7 ∧ getHaltPc (start .rv64 []) = 0 ∧ getHaltCode (start .rv64 []) = 0
    ∧ vaddrTranslate 0x2000 (paged []) = some 0x80020000 ∧ vaddrTranslate 0x1000 (paged []) = none := by
  decide +kernel

/-- `poll_due()` inside `run` (40_step.md rule R429). -/
theorem test_poll_period :
    let s := start .rv64 []
    let s := { s with cfg := { s.cfg with pollPeriod := 2 } }
    pollDue s = true ∧ pollDue { s with pollCounter := 1 } = false ∧ pollDue { s with pollCounter := 2 } = true := by
  decide

/-! ### Witnesses: every hypothesis of every statement is met somewhere -/

/-- The platform of the witnesses: the RAM and a device. -/
def withDevice (s : State) : State :=
  { s with cfg := { s.cfg with bus := [⟨0x80000000, 0x100000, .ram⟩, ⟨0x10000000, 0x1000, .device⟩] } }

/-- A hart as the front half of its coming step finds it. -/
def atFetch (s : State) : State := duringStep (nextInput s) (beginStep (nextInput s) s)

/-- The checks of an access as one closed fact. -/
theorem passes {acc : Access} {ea : Word} {n pa : Nat} {s : State}
    (h : ea.toNat % n = 0 ∧ translate acc .data ea s = .ok pa ∧ pmpOk acc pa n s = true) : Passes acc ea n pa s :=
  ⟨h.1, h.2.1, h.2.2⟩

theorem inRam {pa n : Nat} {s : State} (h : (regionOf s.cfg.bus pa n).map (·.kind) = some .ram) : InRam pa n s :=
  Option.map_eq_some_iff.1 h

theorem inDevice {pa n : Nat} {s : State} (h : (regionOf s.cfg.bus pa n).map (·.kind) = some .device) :
    InDevice pa n s := Option.map_eq_some_iff.1 h

/-- A load from memory that holds zeros. -/
theorem loadsZero {ea : Word} {n pa : Nat} {s : State}
    (h : ea.toNat % n = 0 ∧ translate .load .data ea s = .ok pa ∧ pmpOk .load pa n s = true)
    (hr : (regionOf s.cfg.bus pa n).map (·.kind) = some .ram) (hv : leNat s.mem pa n = 0) : Loads ea n pa 0 s :=
  ⟨passes h, .inl ⟨inRam hr, hv.symm⟩⟩

theorem witness_ram : InRam 0x80001000 8 (start .rv64 []) ∧ InRam 0x800FFFFF 1 (start .rv64 []) :=
  ⟨inRam (by decide), inRam (by decide)⟩

theorem witness_device : InDevice 0x10000FF8 8 (withDevice (start .rv64 [])) := inDevice (by decide)

theorem witness_DecodeOfEncode : (Instr.addi 10 11 (-1)).wf .rv64 = true ∧ (Instr.cJal (-1)).wf .rv32 = true
    ∧ (Instr.cIllegal 0).wf .rv64 = true ∧ (Instr.fence 15 15 15 31 31).wf .rv32 = true := by decide

theorem witness_EncodeOfDecode :
    decodeWord .rv64 0xFFF58513 = .ok (.addi 10 11 (-1)) ∧ (0xFFF58513 : BitVec 32).extractLsb' 0 2 = 3
    ∧ decodeWord .rv32 0x00003FF5 = .ok (.cJal (-2)) ∧ (0x00003FF5 : BitVec 32).extractLsb' 0 2 ≠ 3 := by decide

/-- A Running hart, no interrupt, an instruction at `pc`. -/
def atAddi : State := (start .rv64 []).withFetchWord 32 0x00100513
/-- A Running hart, no interrupt, a compressed instruction at `pc`. -/
def atCAddi : State := (start .rv64 []).withFetchWord 32 0x0505

/-- A miss, a line that decodes and one that does not, and a fill. -/
theorem witness_StepRunsFetchedInstruction :
    let lined (w : BitVec 32) : State := { atAddi with icache := [(0x80000000, ⟨4, w⟩)] }
    (atAddi.runState = .running ∧ interruptScan (beginStep (nextInput atAddi) atAddi) = none
      ∧ fetchDecode (nextInput atAddi).useIcache (atFetch atAddi) = .instr (.addi 10 0 1) ⟨4, 0x00100513⟩ false)
    ∧ ((atFetch (lined 0x00200513)).pc.toNat % 2 = 0 ∧ (atFetch (lined 0x00200513)).cfg.icacheEnabled = true
      ∧ mapLookup (atFetch (lined 0x00200513)).pc.toNat (atFetch (lined 0x00200513)).icache = some ⟨4, 0x00200513⟩
      ∧ (nextInput (lined 0x00200513)).useIcache = true ∧ decodeWord .rv64 0x00200513 = .ok (.addi 10 0 2)
      ∧ decodeWord .rv64 0x7F = .error (.noPattern32 0x7F))
    ∧ (start .rv64 []).cfg.icacheEnabled = true ∧ (start .rv64 []).trapPending = false := by decide

theorem witness_StepRunsBytesAtPc :
    let s1 := atFetch atAddi
    let i : Instr := .addi 10 0 1
    atAddi.runState = .running ∧ interruptScan (beginStep (nextInput atAddi) atAddi) = none ∧ i.wf s1.cfg.xlen = true
    ∧ s1.pc.toNat % 2 = 0 ∧ mapLookup s1.pc.toNat s1.icache = none
    ∧ translate .fetch .fetchLow s1.pc s1 = .ok 0x80000000 ∧ pmpOk .fetch 0x80000000 2 s1 = true
    ∧ regionOf s1.cfg.bus 0x80000000 2 = some ⟨0x80000000, 0x100000, .ram⟩
    ∧ (∀ k, k < 2 → seenByte .fetchLow none s1 (0x80000000 + k) = (encode i).bytes.getD k 0) ∧ (encode i).len = 4
    ∧ translate .fetch .fetchHigh (norm s1.cfg.xlen (s1.pc + 2)) s1 = .ok 0x80000002
    ∧ pmpOk .fetch 0x80000002 2 s1 = true ∧ regionOf s1.cfg.bus 0x80000002 2 = some ⟨0x80000000, 0x100000, .ram⟩
    ∧ ∀ k, k < 2 → seenByte .fetchHigh none s1 (0x80000002 + k) = (encode i).bytes.getD (2 + k) 0 := by decide

/-- A parcel that another agent overwrites after its fetch, in the same step. -/
theorem witness_StepRunsBytesAtPc_parcel :
    let s : State := { atCAddi with env := [{ quiet with lateWrites := [(6, (0x80000000, 0xFF))] }] }
    let s1 := atFetch s
    let i : Instr := .cAddi 10 1
    s.runState = .running ∧ interruptScan (beginStep (nextInput s) s) = none ∧ i.wf s1.cfg.xlen = true
    ∧ s1.pc.toNat % 2 = 0 ∧ mapLookup s1.pc.toNat s1.icache = none
    ∧ translate .fetch .fetchLow s1.pc s1 = .ok 0x80000000 ∧ pmpOk .fetch 0x80000000 2 s1 = true
    ∧ regionOf s1.cfg.bus 0x80000000 2 = some ⟨0x80000000, 0x100000, .ram⟩ ∧ readByte s1.mem 0x80000000 = 0xFF
    ∧ (∀ k, k < 2 → seenByte .fetchLow none s1 (0x80000000 + k) = (encode i).bytes.getD k 0) ∧ (encode i).len ≠ 4 := by
  decide

theorem witness_RetireAdvancesPcAndCounters :
    let s := start .rv64 []
    (s.trapPending = false ∧ s.wroteMinstret = false ∧ s.wroteMcycle = false)
    ∧ { s with wroteMcycle := true }.wroteMcycle = true ∧ { s with wroteMinstret := true }.wroteMinstret = true
    ∧ { s with minstret := 0xFFFFFFFFFFFFFFFF }.minstret.toNat + 1 = 2 ^ 64 := by decide

/-- A hart whose `pc` is the last parcel of the RAM, and one whose second parcel lies at address 0. -/
def atEnd : State := { withMem 2 0x800FFFFE 0x0003 (start .rv64 []) with pc := 0x800FFFFE }
def atWrap : State :=
  let s := withMem 2 0xFFFFFFFE 0x0003 (start .rv32 [])
  { s with pc := 0xFFFFFFFE, cfg := { s.cfg with bus := [⟨0xFFFF0000, 0x10000, .ram⟩] } }

/-- Each way the fetch of a parcel fails, but for a device that refuses, whose answer is free. -/
theorem witness_FrontEndTraps :
    let odd := { start .rv64 [] with pc := 0x80000001 }
    let outside := { start .rv64 [] with pc := 0x1000 }
    (odd.runState = .running ∧ interruptScan (beginStep (nextInput odd) odd) = none ∧ (atFetch odd).pc.toNat % 2 = 1)
    ∧ (interruptScan (beginStep (nextInput outside) outside) = none ∧ (atFetch outside).pc.toNat % 2 = 0
      ∧ mapLookup 0x1000 (atFetch outside).icache = none
      ∧ fetchWord (atFetch outside) = .error ⟨.instrAccessFault, 0x1000⟩)
    ∧ fetchWord (atFetch ((start .rv64 []).withFetchWord 32 0x7F)) = .ok ⟨4, 0x7F⟩
    ∧ decodeWord .rv64 0x7F = .error (.noPattern32 0x7F)
    ∧ translate .fetch .fetchLow 0x1000 (paged []) = .error .pageFault
    ∧ translate .fetch .fetchLow 0x40000000 (paged []) = .error .accessFault
    ∧ pmpOk .fetch 0x80000000 2 { start .rv64 [] with priv := .supervisor } = false
    ∧ regionOf (start .rv64 []).cfg.bus 0x1000 2 = none := by decide +kernel

/-- A first parcel that ends in 11, with a second one beyond the RAM, one at address 0, and one that can be read. -/
theorem witness_FrontEndTraps_high :
    ParcelReads .fetchLow 0x800FFFFE 3 (atFetch atEnd) ∧ ParcelFails .fetchHigh 0x80100000 .instrAccessFault (atFetch atEnd)
    ∧ (atFetch atEnd).runState = .running ∧ (0x80100000 : Word).toNat = ((atFetch atEnd).pc.toNat + 2) % 2 ^ 64
    ∧ ParcelReads .fetchLow 0xFFFFFFFE 3 (atFetch atWrap) ∧ ParcelFails .fetchHigh 0 .instrAccessFault (atFetch atWrap)
    ∧ (0 : Word).toNat = ((atFetch atWrap).pc.toNat + 2) % 2 ^ 32
    ∧ ParcelReads .fetchLow 0x80000000 0x7F (atFetch ((start .rv64 []).withFetchWord 32 0xFFFF007F))
    ∧ ParcelReads .fetchHigh 0x80000002 0xFFFF (atFetch ((start .rv64 []).withFetchWord 32 0xFFFF007F))
    ∧ decodeWord .rv64 (BitVec.ofNat 32 (0x7F + 2 ^ 16 * 0xFFFF)) = .error (.noPattern32 0xFFFF007F) := by
  have low {slot : Slot} {va : Word} {v : Nat} {s : State}
      (h : translate .fetch slot va s = .ok va.toNat ∧ pmpOk .fetch va.toNat 2 s = true
        ∧ (regionOf s.cfg.bus va.toNat 2).map (·.kind) = some .ram
        ∧ v = (seenByte slot none s va.toNat).toNat + 256 * (seenByte slot none s (va.toNat + 1)).toNat) :
      ParcelReads slot va v s := ⟨_, h.1, h.2.1, .inl ⟨inRam h.2.2.1, h.2.2.2⟩⟩
  have high {va : Word} {s : State}
      (h : translate .fetch .fetchHigh va s = .ok va.toNat ∧ regionOf s.cfg.bus va.toNat 2 = none) :
      ParcelFails .fetchHigh va .instrAccessFault s := .inr ⟨rfl, .inr ⟨_, h.1, .inr (.inl h.2)⟩⟩
  exact ⟨low (by decide), high (by decide), by decide, by decide, low (by decide), high (by decide), by decide,
    low (by decide), low (by decide), by decide⟩

/-- A deadline at the uptime fires and one beyond it does not; a line call, a store, a dropped reservation; stores during
the step in the order of their places. -/
theorem witness_StepsAndArrivals :
    (construct Build.default State.reset).runState ≠ .running ∧ State.reset.runState = .running
    ∧ nextInput (start .rv64 []) = quiet
    ∧ (let i : StepInput := { quiet with lines := [(.supervisorTimer, true), (.supervisorTimer, false)], advance := 5
                                         busWrites := [(0x80000000, 9), (0x1000, 9)], dropResv := [8], timerWaits := false }
      let s (d : BitVec 64) (b : Bool) : State :=
        let h := start .rv64 []
        { h with timerDeadline := some d, resv := [(8, 1)], cfg := { h.cfg with resvSpurious := b } }
      (beginStep i (s 5 true)).uptime = 5 ∧ bit (beginStep i (s 5 true)).mip 5 = true ∧ (beginStep i (s 5 true)).resv = []
      ∧ bit (beginStep i (s 6 false)).mip 5 = false ∧ (beginStep i (s 6 false)).timerDeadline = some 6
      ∧ (beginStep i (s 6 false)).resv = [(8, 1)] ∧ (beginStep i (s 6 false)).mem = [(0x80000000, 9)])
    ∧ (start .rv64 []).former = [] ∧ accessRank .fetchHigh none < 17 ∧ accessRank .data (some 0) < 17
    ∧ [(6, ((0x80000000, 1) : Host.Cell)), (11, (0x80000001, 2))].Pairwise (fun p q => p.1 ≤ q.1) := by decide

/-- A state that satisfies the invariant and steps. -/
theorem witness_StepKeepsInv : atAddi.Inv ∧ ∃ t, step atAddi = .next t := by
  refine ⟨⟨?_, ?_, ?_, ?_⟩, _, rfl⟩ <;> constructor <;> first | decide | (constructor <;> decide)

/-- A User-mode state whose instruction runs without a trap. -/
theorem witness_UserModeIsConfined :
    let s := inMode .user (start .rv64 [])
    s.priv = .user ∧ s.trapPending = false
    ∧ ∃ t, exec (.addi 10 10 1) s = .next t ∧ t.trapPending = false :=
  ⟨by decide, by decide, _, rfl, by decide⟩

theorem witness_DivisionAndProductLaws :
    let s := start .rv64 [(11, 0x8000000000000000), (12, 0xFFFFFFFFFFFFFFFF)]
    (∃ q r qu ru lo hs hu, exec (.div 10 11 12) s = .next q ∧ exec (.rem 10 11 12) s = .next r
      ∧ exec (.divu 10 11 12) s = .next qu ∧ exec (.remu 10 11 12) s = .next ru ∧ exec (.mul 10 11 12) s = .next lo
      ∧ exec (.mulh 10 11 12) s = .next hs ∧ exec (.mulhu 10 11 12) s = .next hu) ∧ regU 12 s ≠ 0 :=
  ⟨⟨_, _, _, _, _, _, _, rfl, rfl, rfl, rfl, rfl, rfl, rfl⟩, by decide⟩

/-- The 32-bit forms, on the overflowing quotient. -/
theorem witness_DivisionAndProductLaws_word :
    let s := start .rv64 [(11, 0x80000000), (12, 0xFFFFFFFF)]
    (∃ q r qu ru, exec (.divw 10 11 12) s = .next q ∧ exec (.remw 10 11 12) s = .next r
      ∧ exec (.divuw 10 11 12) s = .next qu ∧ exec (.remuw 10 11 12) s = .next ru) ∧ lowU 12 s ≠ 0 :=
  ⟨⟨_, _, _, _, rfl, rfl, rfl, rfl⟩, by decide⟩

/-! Accesses that pass, at the last address of the RAM too. -/

theorem witness_loads : Loads 0x80001000 8 0x80001000 0 (start .rv64 []) ∧ Loads 0x80001000 4 0x80001000 0 (start .rv64 [])
    ∧ Loads 0x80001000 2 0x80001000 0 (start .rv64 []) ∧ Loads 0x800FFFFF 1 0x800FFFFF 0 (start .rv64 []) := by
  refine ⟨?_, ?_, ?_, ?_⟩ <;> exact loadsZero (by decide) (by decide) (by decide)

/-- Effective addresses of the forms of LoadResults that those loads are at. -/
theorem witness_LoadResults :
    effAddr 11 (sextImm (-1 : BitVec 12)) (start .rv64 [(11, 0x80001001)]) = 0x80001000
    ∧ effAddr (wide 3) (scaledImm 2 (31 : BitVec 5)) (start .rv64 [(11, 0x80000F84)]) = 0x80001000
    ∧ effAddr (wide 3) (scaledImm 3 (31 : BitVec 5)) (start .rv64 [(11, 0x80000F08)]) = 0x80001000
    ∧ effAddr 2 (scaledImm 2 (63 : BitVec 6)) (start .rv64 [(2, 0x80000F04)]) = 0x80001000
    ∧ effAddr 2 (scaledImm 3 (63 : BitVec 6)) (start .rv64 [(2, 0x80000E08)]) = 0x80001000 := by decide

theorem witness_stores : Passes .store 0x80001000 8 0x80001000 (start .rv64 [])
    ∧ Passes .store 0x80001000 4 0x80001000 (start .rv64 []) ∧ Passes .store 0x80001000 2 0x80001000 (start .rv64 [])
    ∧ Passes .store 0x800FFFFF 1 0x800FFFFF (start .rv64 [])
    ∧ Passes .store 0x10000FF8 8 0x10000FF8 (withDevice (start .rv64 []))
    ∧ Passes .store 0x2000 8 0x80020000 (paged []) := by
  refine ⟨?_, ?_, ?_, ?_, ?_, ?_⟩ <;> exact passes (by decide +kernel)

/-- Each check of an access fails somewhere. -/
theorem witness_AccessTraps :
    loadAccess (.ld 10 11 0) (start .rv64 [(11, 0x80001004)]) = some (0x80001004, 8)
    ∧ loadAccess (.flw 10 11 0) (withF [] (start .rv64 [(11, 0x80001002)])) = some (0x80001002, 4)
    ∧ mstatusFS (withF [] (start .rv64 [])) ≠ 0
    ∧ (0x80001004 : Word).toNat % 8 ≠ 0
    ∧ translate .load .data 0x1000 (paged []) = .error .pageFault
    ∧ translate .load .data 0x40000000 (paged []) = .error .accessFault
    ∧ translate .store .data 0x1000 (paged []) = .error .pageFault
    ∧ translate .store .data 0x3000 (paged []) = .error .accessFault
    ∧ pmpOk .load 0x80001000 8 { start .rv64 [] with priv := .supervisor } = false
    ∧ pmpOk .store 0x80001000 8 { start .rv64 [] with priv := .supervisor } = false
    ∧ regionOf (start .rv64 []).cfg.bus 0x100000 8 = none ∧ regionOf (start .rv64 []).cfg.bus 0x800FFFFC 8 = none
    ∧ isReservation (.amoaddD 10 11 12 0 0) = false := by decide +kernel

theorem witness_CsrInstructionResults :
    let s := start .rv64 [(5, 7)]
    (∃ new, csrForm (.csrrs 10 0 0x300) s = some (10, 0x300, false, new)) ∧ Csr.ofAddr .rv64 0x300 = some .mstatus
    ∧ (∃ new, csrForm (.csrrw 10 5 0x340) s = some (10, 0x340, true, new)) ∧ Csr.ofAddr .rv64 0x340 = some .mscratch
    ∧ ((0x340 : CsrAddr).toNat / 256) % 4 ≤ s.priv.level ∧ (0x340 : CsrAddr).toNat / 1024 ≠ 3
    ∧ counterAllowed .mscratch s = true
    ∧ (∃ new, csrForm (.csrrci 10 31 0x003) (withF [] s) = some (10, 0x003, true, new)) ∧ mstatusFS (withF [] s) ≠ 0 :=
  ⟨⟨_, rfl⟩, by decide, ⟨_, rfl⟩, by decide, by decide, by decide, by decide, ⟨_, rfl⟩, by decide⟩

/-- Rows of the map at its ends, and what the refusals ask for. -/
theorem witness_CsrInstructionsRefused :
    (0xF15, false, Csr.mconfigptr) ∈ csrRows ∧ (0x15D, true, Csr.stimecmph) ∈ csrRows
    ∧ 0x3AE = 0x3A0 + (14 : BitVec 4).toNat ∧ 0x3EF = 0x3B0 + (63 : BitVec 6).toNat
    ∧ Csr.ofAddr .rv64 0x3AF = none ∧ Csr.ofAddr .rv32 0x3AF = some (.pmpcfg 15)
    ∧ Csr.ofAddr .rv64 0x3EF = some (.pmpaddr 63) ∧ Csr.ofAddr .rv64 0x3F0 = none ∧ Csr.ofAddr .rv64 0x7C0 = none
    ∧ Csr.ofAddr .rv64 0xC80 = none
    ∧ (inMode .user (start .rv64 [])).priv.level < ((0x100 : CsrAddr).toNat / 256) % 4
    ∧ (0xF14 : CsrAddr).toNat / 1024 = 3
    ∧ counterAllowed .cycle (inMode .supervisor (start .rv64 [])) = false
    ∧ counterAllowed .time { inMode .user (start .rv64 []) with mcounteren := 7 } = false
    ∧ mstatusFS (start .rv64 []) = 0 := by decide

/-- `menvcfg` (10_state.md rule R67) is named in no build: the premise of an absent address is met. -/
theorem witness_CsrInstructionsRefused_absent : ∀ xl c, ¬csrNamed xl 0x30A c := by
  rintro xl c (⟨only32, h, -⟩ | ⟨n, h, -⟩ | ⟨n, h, -⟩)
  · simp [csrRows] at h
  · omega
  · omega

theorem witness_CounterGating :
    bit (inMode .supervisor (start .rv64 [])).mcounteren (0xC02 % 32) = false
    ∧ bit ({ inMode .user (start .rv64 []) with mcounteren := 7 } : State).scounteren (0xC81 % 32) = false
    ∧ (∃ new, csrForm (.csrrs 10 0 0xC02) (start .rv64 []) = some (10, 0xC02, false, new))
    ∧ Csr.ofAddr .rv32 0xC82 = some .instreth
    ∧ counterAllowed .instreth { inMode .supervisor (start .rv32 []) with mcounteren := 4 } = true
    ∧ counterAllowed .time { inMode .user (start .rv64 []) with mcounteren := 2, scounteren := 2 } = true :=
  ⟨by decide, by decide, ⟨_, rfl⟩, by decide⟩

theorem witness_InterruptDelivery :
    let m := { start .rv64 [] with mstatus := 0xA00000008, mip := 0x80, mie := 0x80 }
    let u := { inMode .user (start .rv64 []) with mip := 0x2, mie := 0x2, mideleg := 0x222 }
    interruptScan (beginStep (nextInput m) m) = some (.machineTimer, false)
    ∧ interruptScan (beginStep (nextInput u) u) = some (.supervisorSoftware, true)
    ∧ m.runState = .running ∧ u.runState = .running := by decide

/-- LR, SC, SC at one address. -/
theorem witness_LrThenScSucceedsOnce :
    let s := start .rv64 [(11, 0x80001000)]
    ∃ t u v, exec (.lrD 10 11 0 0) s = .next t ∧ exec (.scD 12 11 10 0 0) t = .next u
      ∧ exec (.scD 13 11 10 0 0) u = .next v
      ∧ Passes .load (readX 11 s) 8 0x80001000 s ∧ Passes .store (readX 11 t) 8 0x80001000 t
      ∧ Passes .store (readX 11 u) 8 0x80001000 u ∧ InRam 0x80001000 8 s :=
  ⟨_, _, _, rfl, rfl, rfl, passes (by decide), passes (by decide), passes (by decide), inRam (by decide)⟩

/-- The value of a normal pattern from its fields. -/
theorem fpValue_normal {f : Fmt} {v : BitVec 64} {sign : Bool} {e frac : Nat}
    (h : signOf f v = sign ∧ expOf f v = e + 1 ∧ fracOf f v = frac) :
    fpValue f v = (if sign then -1 else 1) * ((2 ^ fracBits f + frac) * 2 ^ (leastExp f + e)) := by
  rw [fpValue, h.1, h.2.1, h.2.2, if_neg (Nat.succ_ne_zero e), show leastExp f + ((e + 1 : Nat) : ℤ) - 1 = leastExp f + e by
    omega]

/-- Values worked out by hand from the fields (47_float_f.md rule R666). -/
theorem test_fpValue : fpValue .s 0x3F800000 = 1 ∧ fpValue .s 0xBFC00000 = -3 / 2 ∧ fpValue .s 0x80000001 = -2 ^ (-149 : ℤ)
    ∧ fpValue .s 0x4B800000 = 16777216 ∧ fpValue .d 0x3FF8000000000000 = 3 / 2 := by
  refine ⟨?_, ?_, ?_, ?_, ?_⟩
  · rw [fpValue_normal (sign := false) (e := 126) (frac := 0) (by decide)]; norm_num [fracBits, leastExp]
  · rw [fpValue_normal (sign := true) (e := 126) (frac := 0x400000) (by decide)]; norm_num [fracBits, leastExp]
  · simp [fpValue, signOf, expOf, fracOf, bit, leastExp]
  · rw [fpValue_normal (sign := false) (e := 150) (frac := 0) (by decide)]; norm_num [fracBits, leastExp]
  · rw [fpValue_normal (sign := false) (e := 1022) (frac := 0x8000000000000) (by decide)]; norm_num [fracBits, leastExp]

/-- Operands of each clause: finite ones, sums that are zero and that are not, a positive number under the root. -/
theorem witness_ArithmeticRoundsTheExactResult :
    ((4 : Rm).toNat < 5 ∧ fpFinite .s 0x3F800000 ∧ fpFinite .s 0xBFC00000 ∧ fpFinite Fmt.s.other 0x3FF8000000000000)
    ∧ fpValue .s 0x3F800000 + fpValue .s 0xBFC00000 ≠ 0 ∧ fpValue .s 0x3F800000 - fpValue .s 0x3F800000 = 0
    ∧ 0 < fpValue .s 0x3F800000 ∧ fpValue .s 0x80000000 = 0 ∧ (ieeeAdd .s 0 0x3F800000 0x40000000).2 = 0 := by
  obtain ⟨h1, h2, -⟩ := test_fpValue
  rw [h1, h2]
  refine ⟨by unfold fpFinite; decide, by norm_num, by norm_num, by norm_num, ?_, by decide⟩
  simp [fpValue, signOf, expOf, fracOf, bit]

/-- What `RoundsTo` says of two numbers: 1 is itself, and 2^24 + 1 is a tie that goes to the even 2^24 with NX. -/
theorem test_RoundsTo :
    RoundsTo .s 0 (1 : ℚ) (0x3F800000, 0) ∧ RoundsTo .s 0 (16777217 : ℚ) (0x4B800000, 1) := by
  refine ⟨⟨0, 8388608, 8388608, ?_⟩, ⟨24, 8388608, 8388608, ?_⟩⟩
  · simp [RoundsToInt, fpFinite, fracBits, leastExp, signOf, bit]
    norm_num
    exact ⟨by decide, test_fpValue.1⟩
  · simp [RoundsToInt, fpFinite, fracBits, leastExp, signOf, bit]
    norm_num
    exact ⟨by decide, test_fpValue.2.2.2.1⟩

/-- A quiet and a signaling NaN, the infinities of both signs, zeros and finite operands, in both formats. -/
theorem witness_ArithmeticOnNaNsAndInfinities :
    isNaN .s (ieeeArith .add .s 0 0x7FC00001 0 0).1 = true
    ∧ (ieeeArith .sub .s 0 0x7F800000 0x7F800000 0).2.getLsbD 4 = true
    ∧ (IsPattern .s 0x7FC00001 ∧ FpNaN .s 0x7FC00001 ∧ ¬FpSNaN .s 0x7FC00001)
    ∧ (FpSNaN .s 0x7F800001 ∧ FpSNaN .d 0x7FF0000000000001)
    ∧ (IsPattern .s 0xFF800000 ∧ FpInf .s 0xFF800000 ∧ signOf .s 0xFF800000 = true ∧ FpInf .s 0x7F800000
      ∧ signOf .s 0x7F800000 = false)
    ∧ (FpZero .s 0x80000000 ∧ fpFinite .s 0x80000000 ∧ fpFinite .s 0x7F7FFFFF)
    ∧ IsPattern Fmt.s.other 0xFFF0000000000000 ∧ FpInf Fmt.s.other 0xFFF0000000000000
    ∧ FpNaN Fmt.d.other 0x7F800001 ∧ IsPattern .d 0xFFFFFFFFFFFFFFFF := by unfold fpFinite; decide +kernel

theorem witness_ArithmeticOnNaNsAndInfinities_negative : fpFinite .s 0xBFC00000 ∧ fpValue .s 0xBFC00000 < 0 :=
  ⟨by unfold fpFinite; decide, by rw [test_fpValue.2.1]; norm_num⟩

theorem witness_TranslationModes :
    let s (satp : Word) : State := { inMode .supervisor (start .rv64 []) with satp := satp }
    (∀ k, 39 ≤ k → k < 64 → bit 0xFFFFFFC000000000 k = bit 0xFFFFFFC000000000 38) ∧ sv39.levels = 3 ∧ sv48.levels ≠ 3
    ∧ (s 0).priv ≠ .machine ∧ satpMode .rv64 (s 0x80010).satp = none
    ∧ satpMode .rv64 (s 0x8000000000080010).satp = some sv39 ∧ bit 0x8000000000 39 ≠ bit 0x8000000000 38
    ∧ satpMode .rv64 (s 0x9000000000080010).satp = some sv48
    ∧ (0xABCD000080020000 : Word).extractLsb' 0 48 = (0x80020000 : Word).extractLsb' 0 48
    ∧ satpMode .rv64 (s 0xA000000000080010).satp = some sv57
    ∧ (0xFE00000080020000 : Word).extractLsb' 0 57 = (0x80020000 : Word).extractLsb' 0 57
    ∧ satpMode .rv32 0x80080010 = some sv32 ∧ bit (0xFFFFFFFF : Word) 18 = bit 0x40000 18 := by decide

/-- The table entries of each clause of WalkLevels, read from the image. -/
theorem witness_WalkLevels :
    physRead .data (some 2) 0x10000000 8 (paged []) = none
    ∧ physRead .data (some 0) 0x80012008 8 (paged []) = some 0x20008005
    ∧ physRead .data (some 0) 0x80012028 8 (paged []) = some 0x20008001
    ∧ physRead .data (some 2) 0x80010000 8 (paged []) = some 0x20004401
    ∧ physRead .data (some 1) 0x80011010 8 (paged []) = some 0x2000040F
    ∧ (0x2000040F : Word).toNat / 2 ^ 10 % 2 ^ 44 % 2 ^ 9 ≠ 0
    ∧ physRead .data (some 0) 0x80012020 8 (paged []) = some 0x20008017 ∧ bit 0x20008017 4 = true
    ∧ bit (paged []).mstatus 18 = false ∧ physRead .data (some 0) 0x80012018 8 (paged []) = some 0x20008003
    ∧ bit 0x20008003 2 = false ∧ physRead .data (some 1) 0x80011008 8 (paged []) = some 0x20000007
    ∧ (0x20000007 : Word).toNat / 2 ^ 10 % 2 ^ 44 % 2 ^ 9 = 0 ∧ bit 0x20000007 1 = true := by decide +kernel

/-- An entry of each matching mode, at the bounds of its clause. -/
theorem witness_PmpFirstMatchDecides :
    let s := inMode .supervisor (start .rv64 [])
    let entries (cfg : BitVec 8) (a0 a1 : Word) : State :=
      { s with pmpcfg := (s.pmpcfg.set 0 cfg).set 1 cfg, pmpaddr := (s.pmpaddr.set 0 a0).set 1 a1 }
    s.priv ≠ .machine
    ∧ (let t := entries 0x1F 0x200001FF 0
      t.pmpcfg[0].extractLsb' 3 2 = 3 ∧ 0x80000000 % 2 ^ (9 + 3) = 0 ∧ 9 < pmpWidth t.cfg.xlen
        ∧ t.pmpaddr[0].toNat = 0x80000000 / 4 + (2 ^ 9 - 1) ∧ pmpRange t 0 = some (0x80000000, 0x80001000))
    ∧ (let t := entries 0x1F 0x3FFFFFFFFFFFFF 0
      t.pmpaddr[0].toNat = 2 ^ 54 - 1 ∧ t.cfg.xlen = .rv64 ∧ pmpRange t 0 = some (0, 2 ^ 56))
    ∧ (let t := entries 0x07 1 2
      t.pmpcfg[1].extractLsb' 3 2 = 0 ∧ pmpRange t 1 = none)
    ∧ (let t := entries 0x0F 1 2
      t.pmpcfg[1].extractLsb' 3 2 = 1 ∧ pmpRange t 0 = some (0, 4) ∧ pmpRange t 1 = some (4, 8))
    ∧ pmpRange (entries 0x0F 2 1) 1 = none ∧ pmpRange (entries 0x0F 2 2) 1 = some (8, 8)
    ∧ (let t := entries 0x17 1 2
      t.pmpcfg[1].extractLsb' 3 2 = 2 ∧ pmpRange t 1 = some (8, 12)) := by
  decide +kernel

/-! One witness for each statement that those above serve in parts. -/

theorem witness_ResetInv : Fits Build.default.xlen 0xFFFFFFFFFFFFFFFE := by decide

theorem witness_ExecKeepsMachine :
    Instr.wfi ≠ .ebreak ∧ Instr.wfi ≠ .cEbreak ∧ isCsrInstr .wfi = false := by decide

theorem witness_IcacheChangesOnlyByFences :
    (∃ t, exec (.sfenceVma 0 0) (inMode .supervisor (start .rv64 [])) = .next t)
    ∧ (∃ t, exec (.sfenceVma 0 0) (inMode .user (start .rv64 [])) = .next t)
    ∧ (inMode .supervisor (start .rv64 [])).priv ≠ .user ∧ (inMode .user (start .rv64 [])).priv = .user :=
  ⟨⟨_, rfl⟩, ⟨_, rfl⟩, by decide, by decide⟩

theorem witness_PrivilegeChangesOnlyByTrapsAndReturns :
    (start .rv64 []).trapPending = false ∧ (∃ t, exec .ecall (start .rv64 []) = .next t ∧ t.trapPending = true)
    ∧ ∃ t, exec .sret (start .rv64 []) = .next t ∧ t.trapPending = false :=
  ⟨by decide, ⟨_, rfl, by decide⟩, _, rfl, by decide⟩

theorem witness_MemoryChangesOnlyByStores :
    let s := start .rv64 [(11, 0x80001000)]
    (∃ t, exec (.sd 11 12 0) s = .next t) ∧ storeAccess (.sd 11 12 0) s = some (0x80001000, 8)
    ∧ translate .store .data 0x80001000 s = .ok 0x80001000
    ∧ (∃ t, exec (.addi 10 11 1) s = .next t) ∧ storeAccess (.addi 10 11 1) s = none
    ∧ atomicAccess (.addi 10 11 1) s = none :=
  ⟨⟨_, rfl⟩, by decide, by decide, ⟨_, rfl⟩, by decide, by decide⟩

theorem witness_SpecialStateChangesOnlyByItsInstructions :
    let s := start .rv64 []
    isCsrInstr (.addi 10 11 1) = false ∧ isReservation (.addi 10 11 1) = false ∧ s.trapPending = false
    ∧ ∃ t, exec (.addi 10 11 1) s = .next t ∧ t.trapPending = false :=
  ⟨by decide, by decide, by decide, _, rfl, by decide⟩

theorem witness_FlagsAreSticky :
    isCsrInstr (.fdivS 10 11 12 0) = false ∧ isFp (.addi 10 11 1) = false
    ∧ (∃ t, exec (.fdivS 10 11 12 0) (withF [] (start .rv64 [])) = .next t)
    ∧ ∃ t, exec (.addi 10 11 1) (start .rv64 []) = .next t :=
  ⟨by decide, by decide, ⟨_, rfl⟩, _, rfl⟩

theorem witness_BranchResults :
    let s := start .rv64 [(11, 5)]
    regU 11 s = 5 ∧ ¬(regU 11 s = regU 0 s) ∧ regS 0 s < regS 11 s ∧ ¬(regU 11 s < regU 0 s) := by decide

/-- The last double of the RAM, and the effective address of a store to it. -/
theorem witness_StoreResults :
    effAddr 11 (sextImm (-8 : BitVec 12)) (start .rv64 [(11, 0x80100000)]) = 0x800FFFF8
    ∧ Passes .store 0x800FFFF8 8 0x800FFFF8 (start .rv64 [(11, 0x80100000)])
    ∧ InRam 0x800FFFF8 8 (start .rv64 [(11, 0x80100000)])
    ∧ effAddr (wide 3) (scaledImm 3 (0 : BitVec 5)) (withDevice (start .rv64 [(11, 0x10000FF8)])) = 0x10000FF8
    ∧ InDevice 0x10000FF8 8 (withDevice (start .rv64 [(11, 0x10000FF8)])) :=
  ⟨by decide, passes (by decide), inRam (by decide), by decide, inDevice (by decide)⟩

theorem witness_FpLoadStoreResults :
    let s := withF [] (start .rv64 [(11, 0x80001000)])
    mstatusFS s ≠ 0 ∧ effAddr 11 (sextImm (0 : BitVec 12)) s = 0x80001000 ∧ Loads 0x80001000 8 0x80001000 0 s
    ∧ Passes .store 0x80001000 4 0x80001000 s ∧ InRam 0x80001000 4 s :=
  ⟨by decide, by decide, loadsZero (by decide) (by decide) (by decide), passes (by decide), inRam (by decide)⟩

theorem witness_SystemInstructionResults :
    (start .rv64 []).priv = .machine ∧ (inMode .supervisor (start .rv64 [])).priv = .supervisor
    ∧ (inMode .user (start .rv64 [])).priv = .user ∧ (start .rv64 []).cfg.haltOnEbreak = true
    ∧ ({ (start .rv64 []).cfg with haltOnEbreak := false } : Build).haltOnEbreak = false := by decide

theorem witness_TrapReturns :
    ((start .rv64 []).priv = .machine ∧ (start .rv64 []).mstatus.extractLsb' 11 2 ≠ 2)
    ∧ (inMode .supervisor (start .rv64 [])).priv ≠ .machine ∧ (inMode .supervisor (start .rv64 [])).priv ≠ .user
    ∧ (inMode .user (start .rv64 [])).priv = .user := by decide

theorem witness_FpCsrsFollowFs :
    (∃ new, csrForm (.csrrwi 10 31 0x003) (withF [] (start .rv64 [])) = some (10, 0x003, true, new))
    ∧ (∃ new, csrForm (.csrrs 10 0 0x001) (start .rv64 []) = some (10, 0x001, false, new))
    ∧ mstatusFS (withF [] (start .rv64 [])) ≠ 0 ∧ mstatusFS (start .rv64 []) = 0 :=
  ⟨⟨_, rfl⟩, ⟨_, rfl⟩, by decide, by decide⟩

theorem witness_PmpRegisters :
    ((start .rv64 []).cfg.xlen = .rv64 ∧ (14 : BitVec 4).toNat % 2 = 0)
    ∧ (start .rv32 []).cfg.xlen ≠ .rv64 ∧ (63 : BitVec 6) ≠ 0
    ∧ 4 * (14 : BitVec 4).toNat ≤ 63 ∧ 63 < 4 * (14 : BitVec 4).toNat + (start .rv64 []).cfg.xlen.bits / 8 := by decide

/-- A value in the future, one that the uptime has reached with a deadline registered before, and a half. -/
theorem witness_TimerCompareWrites :
    (start .rv32 []).cfg.xlen = .rv32
    ∧ (start .rv64 []).uptime.toNat < (csrWrite .stimecmp 1 (start .rv64 [])).stimecmp.toNat
    ∧ (let s := { start .rv64 [] with uptime := 5, timerDeadline := some 9 }
      (csrWrite .stimecmp 5 s).stimecmp.toNat ≤ s.uptime.toNat ∧ (csrWrite .stimecmp 5 s).timerDeadline = some 9) := by
  decide

theorem witness_WriteHooks : (start .rv32 []).cfg.xlen = .rv32 ∧ (start .rv64 []).cfg.xlen = .rv64 := by decide

theorem witness_TrapDelivery :
    delegated 2 { inMode .user (start .rv64 []) with medeleg := 4 } = true
    ∧ delegated 2 { start .rv64 [] with medeleg := 4 } = false := by decide

theorem witness_TrapTargets :
    (63 < 64 ∧ Fits .rv32 0xFFFFFFFD ∧ bit 0xFFFFFFFD 0 = true)
    ∧ (Fits .rv64 0xFFFFFFFFFFFFFFFC ∧ bit 0xFFFFFFFFFFFFFFFC 0 = false) ∧ (start .rv64 []).priv = .machine := by decide

theorem witness_LoadReservedResults :
    let s := start .rv64 [(11, 0x80001000)]
    readX 11 s = 0x80001000 ∧ Loads (readX 11 s) 4 0x80001000 0 s ∧ Loads (readX 11 s) 8 0x80001000 0 s := by
  refine ⟨by decide, ?_, ?_⟩ <;> exact loadsZero (by decide) (by decide) (by decide)

/-- No entry, an entry that memory still holds, and one that it does not. -/
theorem witness_StoreConditionalResults :
    let s (resv : List (Nat × BitVec 64)) : State := { start .rv64 [(11, 0x80001000)] with resv := resv }
    (Passes .store (readX 11 (s [])) 4 0x80001000 (s []) ∧ mapLookup 0x80001000 (s []).resv = none)
    ∧ (Passes .store (readX 11 (s [(0x80001000, 0)])) 4 0x80001000 (s [(0x80001000, 0)])
      ∧ mapLookup 0x80001000 (s [(0x80001000, 0)]).resv = some 0
      ∧ InRam 0x80001000 4 (s [(0x80001000, 0)])
      ∧ leNat (s [(0x80001000, 0)]).mem 0x80001000 4 = (0 : BitVec 64).toNat % 2 ^ (8 * 4))
    ∧ leNat (s [(0x80001000, 5)]).mem 0x80001000 4 ≠ (5 : BitVec 64).toNat % 2 ^ (8 * 4) :=
  ⟨⟨passes (by decide), by decide⟩, ⟨passes (by decide), by decide, inRam (by decide), by decide⟩, by decide⟩

theorem witness_AmoResults :
    let s := start .rv64 [(11, 0x80001000)]
    amoForm (.amomaxuD 10 11 12 1 1) = some (8, .maxu, 10, 11, 12) ∧ Passes .store (readX 11 s) 8 0x80001000 s
    ∧ InRam 0x80001000 8 s :=
  ⟨by decide, passes (by decide), inRam (by decide)⟩

theorem witness_FpGuards :
    isFp (.fmvXD 10 11) = true ∧ mstatusFS (start .rv64 []) = 0 ∧ roundingField (.faddS 10 11 12 5) = some 5
    ∧ roundingField (.fcvtDS 10 11 7) = some 7
    ∧ 5 ≤ (({ start .rv64 [] with fcsr := 0xA0 } : State).fcsr.extractLsb' 5 3).toNat := by decide

theorem witness_FpArithmeticResults :
    mstatusFS (withF [] (start .rv64 [])) ≠ 0 ∧ RoundsBy 7 0 (withF [] (start .rv64 [])) := by unfold RoundsBy; decide

/-- The cases of the table of rule R700, with -2^31 and 2^31 at the bounds of a 32-bit result. -/
theorem witness_FpToIntegerResults :
    (mstatusFS (withF [] (start .rv64 [])) ≠ 0 ∧ RoundsBy 4 4 (withF [] (start .rv64 [])))
    ∧ (4 : Rm).toNat < 5 ∧ IsPattern .s 0xCF000001 ∧ FpNaN .s 0x7FC00000 ∧ FpInf .s 0xFF800000 ∧ fpFinite .s 0xCF000001
    ∧ ieeeToInt .s 0 32 true 0xCF000000 = (0xFFFFFFFF80000000, 0) ∧ ieeeToInt .s 0 32 true 0xCF000001 = (0xFFFFFFFF80000000, 16)
    ∧ ieeeToInt .s 0 32 true 0x4F000000 = (0x7FFFFFFF, 16) ∧ ieeeToInt .s 0 32 false 0x4F000000 = (0x80000000, 0)
    ∧ ieeeToInt .s 3 32 false 0xBF000000 = (0, 1) := by unfold RoundsBy fpFinite; decide +kernel

/-- What `RoundsToInt` says of 5/2 in the five modes. -/
theorem test_RoundsToInt : RoundsToInt 0 (5 / 2 : ℚ) 2 ∧ RoundsToInt 1 (5 / 2 : ℚ) 2 ∧ RoundsToInt 2 (5 / 2 : ℚ) 2
    ∧ RoundsToInt 3 (5 / 2 : ℚ) 3 ∧ RoundsToInt 4 (5 / 2 : ℚ) 3 ∧ ¬RoundsToInt 0 (5 / 2 : ℚ) 3
    ∧ ¬RoundsToInt 4 (5 / 2 : ℚ) 2 := by
  simp only [RoundsToInt, BitVec.reduceToNat]
  norm_num

/-- FS on, and a pattern of each of the ten classes. -/
theorem witness_FpBitResults :
    mstatusFS (withF [] (start .rv32 [])) ≠ 0
    ∧ (FpInf .s 0xFF800000 ∧ FpInf .d 0x7FF0000000000000 ∧ IsPattern .d 0x7FF0000000000000)
    ∧ (0 < expOf .s 0x80800000 ∧ expOf .s 0x7F7FFFFF < topExp .s ∧ signOf .s 0x80800000 = true)
    ∧ (expOf .s 0x807FFFFF = 0 ∧ fracOf .s 0x807FFFFF ≠ 0 ∧ expOf .d 1 = 0 ∧ fracOf .d 1 ≠ 0)
    ∧ (FpZero .s 0x80000000 ∧ FpZero .d 0 ∧ signOf .d 0 = false)
    ∧ FpSNaN .s 0x7FBFFFFF ∧ FpNaN .s 0x7FC00000 ∧ ¬FpSNaN .s 0x7FC00000 := by decide +kernel

/-- Finite operands at the ends of their range; NaNs, infinities and zeros of both signs. -/
theorem witness_ComparisonsAgreeWithValues :
    (fpFinite .s 0x7F7FFFFF ∧ fpFinite .s 0x80000001 ∧ fpFinite .d 0x7FEFFFFFFFFFFFFF ∧ fpFinite .d 0x8000000000000000)
    ∧ (IsPattern .s 0x7F800001 ∧ FpSNaN .s 0x7F800001 ∧ FpNaN .s 0xFFC00000 ∧ ¬FpNaN .s 0x7F800000)
    ∧ ((0xFF800000 : BitVec 64) = infPattern .s true ∧ (0 : BitVec 64) ≠ infPattern .s true)
    ∧ FpZero .s 0 ∧ FpZero .s 0x80000000 ∧ (0 : BitVec 64) ≠ 0x80000000 := by unfold fpFinite; decide +kernel

theorem witness_EffectivePrivilege :
    (start .rv64 []).priv = .machine
    ∧ bit 0xA000A1888 18 = bit (start .rv64 []).mstatus 18 ∧ bit 0xA00021888 18 = bit (start .rv64 []).mstatus 18 := by
  decide

end Sys2Proof.Machine.Tests
end

section
/-!
Words bit by bit: the masks, the XLEN-wide values and the register formats of Safety.lean, in terms of `bit`.
-/

namespace Sys2Proof.Machine

/-! ### Masks and XLEN-wide values -/

@[simp] theorem bit_zero (k : Nat) : bit 0#64 k = false := BitVec.getLsbD_zero

/-- Every bit outside the mask is 0. -/
theorem within_iff {mask v : Word} : Within mask v ↔ ∀ k, k < 64 → bit mask k = false → bit v k = false := by
  have hb : ∀ k, k < 64 → bit (v &&& ~~~mask) k = (bit v k && !bit mask k) := fun k hk => by
    simp [bit, hk]
  constructor
  · intro h k hk hm
    have := hb k hk
    rw [h, hm] at this
    simpa using this.symm
  · intro h
    refine word_ext fun k hk => (hb k hk).trans ?_
    cases hm : bit mask k
    · simp [h k hk hm]
    · simp

/-- A masked value lies within the mask. -/
theorem within_and (mask v : Word) : Within mask (v &&& mask) :=
  within_iff.2 fun k _ hm => by rw [bit_and, hm, Bool.and_false]

/-- Merging a value through a smaller mask stays within the mask. -/
theorem Within.mergeMask {mask sub old : Word} (h : Within mask old) (hs : Within mask sub) (new : Word) :
    Within mask (mergeMask sub old new) := by
  rw [within_iff] at *
  intro k hk hm
  rw [bit_mergeMask _ _ _ _ hk, hs k hk hm, if_neg Bool.false_ne_true, h k hk hm]

/-- Writing a bit of the mask stays within the mask. -/
theorem Within.setBit {mask v : Word} {i : Nat} (h : Within mask v) (hi : bit mask i = true) (b : Bool) :
    Within mask (setBit v i b) := by
  rw [within_iff] at *
  intro k hk hm
  rw [bit_setBit _ _ _ _ hk, if_neg (by rintro rfl; simp [hi] at hm), h k hk hm]

/-- A value fits XLEN when every bit from XLEN on is 0. -/
theorem fits_iff {xl : Xlen} {v : Word} : Fits xl v ↔ ∀ k, k < 64 → xl.bits ≤ k → bit v k = false := by
  constructor
  · intro h k _ hx
    rw [← h, bit, norm_getLsbD, decide_eq_false (by omega), Bool.false_and]
  · intro h
    refine word_ext fun k hk => ?_
    rw [bit, norm_getLsbD, ← bit]
    by_cases hx : k < xl.bits
    · simp [hx]
    · simp [hx, h k hk (by omega)]

theorem fits_norm (xl : Xlen) (v : Word) : Fits xl (norm xl v) := norm_norm xl v

theorem fits_zero (xl : Xlen) : Fits xl 0 := norm_zero xl

theorem fits_readX (r : Reg) (s : State) : Fits s.cfg.xlen (readX r s) := norm_readX r s

/-- A word of 32 bits fits either build. -/
theorem fits_setWidth (xl : Xlen) {n : Nat} (hn : n ≤ 32) (w : BitVec n) : Fits xl (w.setWidth 64) :=
  norm_of_lt xl (by
    rw [BitVec.toNat_setWidth]
    exact Nat.lt_of_le_of_lt (Nat.mod_le _ _) (Nat.lt_of_lt_of_le w.isLt (Nat.pow_le_pow_right (by decide) hn)))

theorem fits_instrBits (xl : Xlen) (i : Instr) : Fits xl (Instr.bits i) := fits_setWidth xl (le_refl 32) _

theorem fits_ofNat (xl : Xlen) {n : Nat} (h : n < 2 ^ 32) : Fits xl (BitVec.ofNat 64 n) :=
  norm_of_lt xl (by rw [BitVec.toNat_ofNat]; omega)

/-- Masking keeps a value within XLEN. -/
theorem Fits.and {xl : Xlen} {v : Word} (h : Fits xl v) (mask : Word) : Fits xl (v &&& mask) := by
  rw [fits_iff] at *
  intro k hk hx
  rw [bit_and, h k hk hx, Bool.false_and]

/-- Writing a bit below XLEN keeps a value within XLEN. -/
theorem Fits.setBit {xl : Xlen} {v : Word} {i : Nat} (h : Fits xl v) (hi : i < xl.bits) (b : Bool) :
    Fits xl (setBit v i b) := by
  rw [fits_iff] at *
  intro k hk hx
  rw [bit_setBit _ _ _ _ hk, if_neg (by omega), h k hk hx]

/-! ### `mstatus` -/

/-- MPP holds 2. -/
theorem mpp_eq_two_iff {m : Word} : m.extractLsb' 11 2 = 2#2 ↔ bit m 12 = true ∧ bit m 11 = false := by
  rw [extractLsb'_eq_iff]
  refine ⟨fun h => ⟨h 1 (by decide), h 0 (by decide)⟩, fun ⟨h12, h11⟩ k hk => ?_⟩
  interval_cases k
  · exact h11
  · exact h12

/-- FS is Dirty. -/
theorem fs_eq_dirty (m : Word) : (m.extractLsb' 13 2 == 3#2) = (bit m 13 && bit m 14) := by
  rw [Bool.eq_iff_iff, beq_iff_eq, extractLsb'_eq_iff, Bool.and_eq_true]
  refine ⟨fun h => ⟨h 0 (by decide), h 1 (by decide)⟩, fun ⟨h13, h14⟩ k hk => ?_⟩
  interval_cases k
  · exact h13
  · exact h14

/-- UXL and SXL hold 2. -/
theorem xl_fields_eq_iff {m : Word} :
    m.extractLsb' 32 4 = 0b1010#4 ↔ ∀ k, 32 ≤ k → k < 36 → bit m k = decide (k = 33 ∨ k = 35) := by
  rw [extractLsb'_eq_iff]
  constructor
  · intro h k h1 h2
    have := h (k - 32) (by omega)
    interval_cases k <;> simpa using this
  · intro h k hk
    have := h (32 + k) (by omega) (by omega)
    interval_cases k <;> simpa using this

/-- `mstatus` is legal, said of its bits: the reserved ones, MPP, SD, SXL and UXL. -/
theorem mstatusLegal_iff {xl : Xlen} {m : Word} : MstatusLegal xl m ↔
    (∀ k, k < 64 → bit (mstatusBits xl) k = false → bit m k = false) ∧ (bit m 12 = true → bit m 11 = true)
    ∧ bit m (xl.bits - 1) = (bit m 13 && bit m 14)
    ∧ (xl = .rv64 → ∀ k, 32 ≤ k → k < 36 → bit m k = decide (k = 33 ∨ k = 35)) := by
  have hmpp : m.extractLsb' 11 2 ≠ 2#2 ↔ (bit m 12 = true → bit m 11 = true) := by
    rw [Ne, mpp_eq_two_iff, not_and, Bool.not_eq_false]
  rw [← within_iff, ← hmpp, ← fs_eq_dirty, ← xl_fields_eq_iff]
  exact ⟨fun ⟨a, b, c, d⟩ => ⟨a, b, c, d⟩, fun ⟨a, b, c, d⟩ => ⟨a, b, c, d⟩⟩

end Sys2Proof.Machine
end

section
/-!
The write-hooks of Machine/Csr.lean bit by bit (10_state.md rules R71, R72, R86, R99), and that what they store is legal
in the words of Safety.lean.
-/

namespace Sys2Proof.Machine

/-! ### `mstatus` -/

/-- Bits of `mstatus` that no condition of rule R71 reads: MIE, SIE, MPIE, SPIE, SPP and MPRV. -/
def freeMstatusBits : List Nat := [1, 3, 5, 7, 8, 17]

/-- A word that differs from a legal `mstatus` in free bits alone is legal. -/
theorem MstatusLegal.of_bits {xl : Xlen} {m m' : Word} (h : MstatusLegal xl m)
    (he : ∀ k, k < 64 → k ∉ freeMstatusBits → bit m' k = bit m k) : MstatusLegal xl m' := by
  rw [mstatusLegal_iff] at *
  obtain ⟨hr, hm, hs, hw⟩ := h
  refine ⟨fun k hk hb => ?_, ?_, ?_, fun hx k h1 h2 => ?_⟩
  · refine (he k hk fun hf => ?_).trans (hr k hk hb)
    have hfree : ∀ xl, ∀ k ∈ freeMstatusBits, bit (mstatusBits xl) k = true := by
      intro xl; cases xl <;> decide
    simp [hfree xl k hf] at hb
  · rw [he 12 (by decide) (by decide), he 11 (by decide) (by decide)]; exact hm
  · rw [he 13 (by decide) (by decide), he 14 (by decide) (by decide), he _ (by cases xl <;> decide)
      (by cases xl <;> decide), hs]
  · rw [he k (by omega) (by simp [freeMstatusBits]; omega), hw hx k h1 h2]

/-- Storing the number of a mode in MPP keeps `mstatus` legal. -/
theorem MstatusLegal.setMpp {xl : Xlen} {m v : Word} (h : MstatusLegal xl m) (hv : bit v 1 = true → bit v 0 = true) :
    MstatusLegal xl (setField m 11 2 v) := by
  have he : ∀ k, k < 64 → k ≠ 11 → k ≠ 12 → bit (setField m 11 2 v) k = bit m k := fun k hk h1 h2 => by
    rw [bit_setField (by decide) _ _ _ _ hk, if_neg (by omega)]
  rw [mstatusLegal_iff] at *
  obtain ⟨hr, hm, hs, hw⟩ := h
  refine ⟨fun k hk hb => ?_, ?_, ?_, fun hx k h1 h2 => ?_⟩
  · refine (he k hk ?_ ?_).trans (hr k hk hb) <;> rintro rfl <;> cases xl <;> revert hb <;> decide
  · simpa [bit_setField] using hv
  · rw [he 13 (by decide) (by decide) (by decide), he 14 (by decide) (by decide) (by decide),
      he _ (by cases xl <;> decide) (by cases xl <;> decide) (by cases xl <;> decide), hs]
  · rw [he k (by omega) (by omega) (by omega), hw hx k h1 h2]

/-- Bit `k` of `mstatus` after FS has become Dirty: FS and SD are ones. -/
theorem bit_dirtied (xl : Xlen) (m : Word) (k : Nat) (hk : k < 64) :
    bit (withSD xl (setField m 13 2 3)) k = if k = 13 ∨ k = 14 ∨ k = xl.bits - 1 then true else bit m k := by
  rw [bit_withSD _ _ _ hk]
  simp only [bit_setField (show 2 < 64 by decide) _ _ _ _ hk, bit_setField (show 2 < 64 by decide) _ _ _ 13 (by decide),
    bit_setField (show 2 < 64 by decide) _ _ _ 14 (by decide)]
  by_cases hx : k = xl.bits - 1
  · simp [hx, bit]
  · by_cases h13 : k = 13
    · simp [h13, bit]
    · by_cases h14 : k = 14
      · simp [h14, bit]
      · rw [if_neg hx, if_neg (by omega), if_neg (by omega)]

/-- FS becoming Dirty keeps `mstatus` legal. -/
theorem MstatusLegal.dirtied {xl : Xlen} {m : Word} (h : MstatusLegal xl m) :
    MstatusLegal xl (withSD xl (setField m 13 2 3)) := by
  rw [mstatusLegal_iff] at *
  obtain ⟨hr, hm, -, hw⟩ := h
  have hb := bit_dirtied xl m
  refine ⟨fun k hk hk0 => ?_, ?_, ?_, fun hx k h1 h2 => ?_⟩
  · rw [hb k hk, if_neg, hr k hk hk0]
    rintro (rfl | rfl | rfl) <;> cases xl <;> revert hk0 <;> decide
  · rw [hb 12 (by decide), hb 11 (by decide)]
    cases xl <;> exact hm
  · rw [hb _ (by cases xl <;> decide), hb 13 (by decide), hb 14 (by decide)]; simp
  · subst hx
    rw [hb k (by omega), if_neg (by simp only [Xlen.bits]; omega), hw rfl k h1 h2]

/-- The writable bits of a value written to `mstatus`, but for an MPP of 2 (rule R71). -/
theorem bit_mstatusMerged (old v : Word) (k : Nat) (hk : k < 64) :
    bit (if v.extractLsb' 11 2 = 2#2 then
        setField (mergeMask mstatusWmask old v) 11 2 ((old.extractLsb' 11 2).setWidth 64)
      else mergeMask mstatusWmask old v) k =
      if v.extractLsb' 11 2 = 2#2 ∧ (k = 11 ∨ k = 12) then bit old k
      else if bit mstatusWmask k then bit v k else bit old k := by
  by_cases hv : v.extractLsb' 11 2 = 2#2
  · rw [if_pos hv, bit_setField (by decide) _ _ _ _ hk, bit_mergeMask _ _ _ _ hk]
    by_cases hm : k = 11 ∨ k = 12
    · rw [if_pos (show 11 ≤ k ∧ k < 11 + 2 by omega), if_pos ⟨hv, hm⟩]
      rcases hm with rfl | rfl <;> simp [bit]
    · rw [if_neg (show ¬(11 ≤ k ∧ k < 11 + 2) by omega), if_neg fun h : _ ∧ (k = 11 ∨ k = 12) => hm h.2]
  · rw [if_neg hv, bit_mergeMask _ _ _ _ hk, if_neg fun h : _ ∧ (k = 11 ∨ k = 12) => hv h.1]

/-- Bit `k` of what a write of `mstatus` stores (rule R71). -/
theorem bit_mstatusHook (xl : Xlen) (old v : Word) (k : Nat) (hk : k < 64) :
    bit (mstatusHook xl old v) k =
      if k = xl.bits - 1 then bit v 13 && bit v 14
      else if xl = .rv64 ∧ 32 ≤ k ∧ k < 36 then decide (k = 33 ∨ k = 35)
      else if v.extractLsb' 11 2 = 2#2 ∧ (k = 11 ∨ k = 12) then bit old k
      else if bit mstatusWmask k then bit v k else bit old k := by
  have hm := bit_mstatusMerged old v
  have hw : bit mstatusWmask 13 = true ∧ bit mstatusWmask 14 = true := by decide
  have h13 := (hm 13 (by decide)).trans (show _ = bit v 13 by simp [hw])
  have h14 := (hm 14 (by decide)).trans (show _ = bit v 14 by simp [hw])
  unfold mstatusHook
  cases xl
  · simp only [bit_withSD _ _ _ hk, h13, h14, hm k hk, reduceCtorEq, false_and, if_false]
  · dsimp only
    rw [bit_setField (by decide) _ _ _ _ hk, bit_withSD _ _ _ hk, h13, h14, hm k hk]
    by_cases hw : 32 ≤ k ∧ k < 36
    · have hsd : k ≠ Xlen.rv64.bits - 1 := by simp only [Xlen.bits]; omega
      rw [if_pos (show 32 ≤ k ∧ k < 32 + 4 from hw), if_neg hsd, if_pos ⟨rfl, hw⟩]
      obtain ⟨h1, h2⟩ := hw
      interval_cases k <;> decide
    · rw [if_neg (show ¬(32 ≤ k ∧ k < 32 + 4) from hw), if_neg (show ¬(Xlen.rv64 = .rv64 ∧ 32 ≤ k ∧ k < 36) by simp [hw])]

/-- A write of a legal `mstatus` stores a legal value. -/
theorem MstatusLegal.hook {xl : Xlen} {old : Word} (h : MstatusLegal xl old) (v : Word) :
    MstatusLegal xl (mstatusHook xl old v) := by
  have hb := bit_mstatusHook xl old v
  rw [mstatusLegal_iff] at *
  obtain ⟨hr, hm, -, -⟩ := h
  have hfar : ∀ xl : Xlen, ∀ k, 11 ≤ k → k ≤ 14 →
      k ≠ xl.bits - 1 ∧ ¬(xl = .rv64 ∧ 32 ≤ k ∧ k < 36) ∧ bit mstatusWmask k = true := fun xl k h1 h2 => by
    interval_cases k <;> cases xl <;> decide
  have hfield : ∀ k, 11 ≤ k → k ≤ 14 → bit (mstatusHook xl old v) k =
      if v.extractLsb' 11 2 = 2#2 ∧ (k = 11 ∨ k = 12) then bit old k else bit v k := fun k h1 h2 => by
    obtain ⟨hsd, hxl, hwm⟩ := hfar xl k h1 h2
    rw [hb k (by omega), if_neg hsd, if_neg hxl, hwm]; rfl
  refine ⟨fun k hk hk0 => ?_, ?_, ?_, fun hx k h1 h2 => ?_⟩
  · have hwritable : ∀ xl, ∀ k < 64, bit (mstatusBits xl) k = false →
        k ≠ xl.bits - 1 ∧ bit mstatusWmask k = false ∧ (xl = .rv64 → k ≠ 33 ∧ k ≠ 35) := by
      intro xl; cases xl <;> decide
    obtain ⟨hsd, hwm, hux⟩ := hwritable xl k hk hk0
    rw [hb k hk, if_neg hsd, hwm, hr k hk hk0]
    by_cases hx : xl = .rv64
    · simp [hux hx]
    · simp [hx]
  · rw [hfield 12 (by decide) (by decide), hfield 11 (by decide) (by decide)]
    by_cases hv : v.extractLsb' 11 2 = 2#2
    · simpa [hv] using hm
    · have hlegal := hv
      rw [mpp_eq_two_iff, not_and, Bool.not_eq_false] at hlegal
      simpa [hv] using hlegal
  · rw [hb _ (by cases xl <;> decide), if_pos rfl, hfield 13 (by decide) (by decide), hfield 14 (by decide) (by decide)]
    simp
  · subst hx
    rw [hb k (by omega), if_neg (show ¬k = Xlen.rv64.bits - 1 by simp only [Xlen.bits]; omega), if_pos ⟨rfl, h1, h2⟩]

/-- What a write through `sstatus` hands to the hook of `mstatus`: the value's bits in the mask of rule R90. -/
theorem bit_sstatusHook (xl : Xlen) (old v : Word) (k : Nat) (hk : k < 64) :
    bit (mstatusHook xl old (mergeMask sstatusWmask old v)) k =
      if k = xl.bits - 1 then bit v 13 && bit v 14
      else if xl = .rv64 ∧ 32 ≤ k ∧ k < 36 then decide (k = 33 ∨ k = 35)
      else if bit sstatusWmask k then bit v k else bit old k := by
  have hsub : ∀ k < 64, bit sstatusWmask k = true → bit mstatusWmask k = true ∧ k ≠ 11 ∧ k ≠ 12 := by decide
  rw [bit_mstatusHook _ _ _ _ hk]
  simp only [bit_mergeMask _ _ _ _ hk, bit_mergeMask _ _ _ 13 (by decide), bit_mergeMask _ _ _ 14 (by decide)]
  rw [if_pos (show bit sstatusWmask 13 = true by decide), if_pos (show bit sstatusWmask 14 = true by decide)]
  congr 2
  cases hs : bit sstatusWmask k
  · simp
  · obtain ⟨hw, h11, h12⟩ := hsub k hk hs
    simp [hw, h11, h12]

/-! ### `misa` -/

/-- Bit `k` of what a write of `misa` stores (rule R72). -/
theorem bit_misaHook (old v : Word) (k : Nat) (hk : k < 64) :
    bit (misaHook old v) k =
      if 26 ≤ k then bit old k else if k = 4 then !bit v 8 else if k = 3 then bit v 3 && bit v 5 else bit v k := by
  have hm : ∀ k < 64, bit (mergeMask 0x03FFFFFF old v) k = if 26 ≤ k then bit old k else bit v k := fun k hk => by
    have hmask : ∀ k < 64, bit 0x03FFFFFF k = !decide (26 ≤ k) := by decide
    rw [bit_mergeMask _ _ _ _ hk, hmask k hk]
    by_cases h : 26 ≤ k <;> simp [h]
  have he : ∀ k < 64, bit (setBit (mergeMask 0x03FFFFFF old v) 4 (!bit (mergeMask 0x03FFFFFF old v) 8)) k =
      if 26 ≤ k then bit old k else if k = 4 then !bit v 8 else bit v k := fun k hk => by
    rw [bit_setBit _ _ _ _ hk, hm k hk, hm 8 (by decide)]
    by_cases h : k = 4 <;> simp [h]
  have h5 := (he 5 (by decide)).trans (show _ = bit v 5 by simp)
  unfold misaHook
  dsimp only
  rw [h5]
  cases hv : bit v 5
  · rw [if_neg (show ¬false = true by decide), bit_setBit _ _ _ _ hk, he k hk]
    by_cases h : k = 3 <;> simp [h]
  · rw [if_pos (show true = true from rfl), he k hk]
    by_cases h : k = 3 <;> simp [h]

/-- A write of a legal `misa` stores a legal value. -/
theorem MisaLegal.hook {xl : Xlen} {old : Word} (h : MisaLegal xl old) (v : Word) : MisaLegal xl (misaHook old v) := by
  have hb := bit_misaHook old v
  have hx : ∀ a b : Word, ∀ k, bit (a ^^^ b) k = xor (bit a k) (bit b k) := fun a b k => BitVec.getLsbD_xor
  refine ⟨within_iff.2 fun k hk hm => ?_, ?_, ?_⟩
  · have h26 : ∀ k < 64, bit 0x03FFFFFF k = false → 26 ≤ k := by decide
    have := within_iff.1 h.letters k hk hm
    rw [hx] at this ⊢
    rw [hb k hk, if_pos (h26 k hk hm), this]
  · rw [hb 4 (by decide), hb 8 (by decide)]; rfl
  · rw [hb 5 (by decide), hb 3 (by decide)]
    intro h5
    simpa using fun _ => h5

end Sys2Proof.Machine
end

section
/-!
The other write-hooks of Machine/Csr.lean: `satp`, the halves of a 64-bit counter, the bytes of a `pmpcfg` register and
the callback of `stimecmp` (10_state.md rules R85, R86, R99, R100).
-/

namespace Sys2Proof.Machine

/-! ### Fields -/

/-- A replaced field reads as the new value. -/
theorem extractLsb'_setField_same {w : Nat} (hw : w < 64) (v f : Word) (lo : Nat) (h : lo + w ≤ 64) :
    (setField v lo w f).extractLsb' lo w = f.extractLsb' 0 w := by
  rw [extractLsb'_eq_iff]
  intro k hk
  rw [bit_setField hw _ _ _ _ (by omega), if_pos (by omega)]
  simp [bit, hk]

/-- A field that does not meet the replaced one reads as before. -/
theorem extractLsb'_setField_other {w : Nat} (hw : w < 64) (v f : Word) (lo : Nat) {lo' w' : Nat}
    (h : lo' + w' ≤ lo ∨ lo + w ≤ lo') (h' : lo' + w' ≤ 64) :
    (setField v lo w f).extractLsb' lo' w' = v.extractLsb' lo' w' := by
  rw [extractLsb'_eq_iff]
  intro k hk
  rw [bit_setField hw _ _ _ _ (by omega), if_neg (by omega)]
  simp [bit, hk]

/-- A word is its high half and its low half. -/
theorem toNat_halves (w : Word) :
    w.toNat = (w.extractLsb' 32 32).toNat * 2 ^ 32 + (w.extractLsb' 0 32).toNat := by
  simp only [BitVec.extractLsb'_toNat, Nat.shiftRight_eq_div_pow]
  have := w.isLt
  omega

/-! ### Halves of a 64-bit counter -/

/-- A write of the low half (of the whole with XLEN = 64), as a number. -/
theorem setLow_toNat (xl : Xlen) (old v : BitVec 64) : (setLow xl old v).toNat =
    (match xl with | .rv64 => v.toNat | .rv32 => old.toNat / 2 ^ 32 * 2 ^ 32 + v.toNat % 2 ^ 32) := by
  cases xl
  · rw [setLow, toNat_halves, extractLsb'_setField_same (by decide) _ _ _ (by decide),
      extractLsb'_setField_other (by decide) _ _ _ (by decide) (by decide)]
    simp only [BitVec.extractLsb'_toNat, Nat.shiftRight_eq_div_pow]
    have := old.isLt
    omega
  · rfl

/-- A write of the high half, as a number. -/
theorem setHigh_toNat (old v : BitVec 64) :
    (setHigh old v).toNat = v.toNat % 2 ^ 32 * 2 ^ 32 + old.toNat % 2 ^ 32 := by
  rw [setHigh, toNat_halves, extractLsb'_setField_same (by decide) _ _ _ (by decide),
    extractLsb'_setField_other (by decide) _ _ _ (by decide) (by decide)]
  simp only [BitVec.extractLsb'_toNat, Nat.shiftRight_eq_div_pow]
  omega

theorem lowHalf_toNat (xl : Xlen) (v : BitVec 64) : (lowHalf xl v).toNat = v.toNat % 2 ^ xl.bits := norm_toNat xl v

theorem highHalf_toNat (v : BitVec 64) : (highHalf v).toNat = v.toNat / 2 ^ 32 := by
  rw [highHalf, BitVec.toNat_ushiftRight, Nat.shiftRight_eq_div_pow]

/-! ### `satp` -/

/-- Bit `k` of what a write of `satp` stores with XLEN = 32: the ASID is cleared. -/
theorem bit_satpHook_rv32 (v : Word) (k : Nat) (hk : k < 64) :
    bit (satpHook .rv32 v) k = (bit v k && !(decide (22 ≤ k) && decide (k < 31))) := by
  rw [satpHook, bit_setField (by decide) _ _ _ _ hk]
  by_cases h : 22 ≤ k ∧ k < 31
  · simp [h]
  · rw [if_neg (show ¬(22 ≤ k ∧ k < 22 + 9) from h)]
    simp only [← Bool.decide_and, h, decide_false, Bool.not_false, Bool.and_true]

/-- What a write of `satp` stores with XLEN = 64: the PPN, ASID 0, and the MODE where it is supported. -/
theorem satpHook_rv64_fields (v : Word) :
    (satpHook .rv64 v).extractLsb' 0 44 = v.extractLsb' 0 44 ∧ (satpHook .rv64 v).extractLsb' 44 16 = 0#16
    ∧ (satpHook .rv64 v).extractLsb' 60 4 =
      if v.extractLsb' 60 4 = 8#4 ∨ v.extractLsb' 60 4 = 9#4 ∨ v.extractLsb' 60 4 = 10#4 then v.extractLsb' 60 4
      else 0#4 := by
  have hmode : (setField v 44 16 0).extractLsb' 60 4 = v.extractLsb' 60 4 :=
    extractLsb'_setField_other (by decide) _ _ _ (by decide) (by decide)
  have hppn : (setField v 44 16 0).extractLsb' 0 44 = v.extractLsb' 0 44 :=
    extractLsb'_setField_other (by decide) _ _ _ (by decide) (by decide)
  have hasid : (setField v 44 16 0).extractLsb' 44 16 = 0#16 :=
    extractLsb'_setField_same (by decide) _ _ _ (by decide)
  unfold satpHook
  dsimp only
  rw [hmode]
  split
  · rename_i hm
    refine ⟨hppn, hasid, hmode.trans ?_⟩
    rcases hm with hm | hm
    · rw [hm]; rfl
    · rw [if_pos hm]
  · rename_i hm
    refine ⟨(extractLsb'_setField_other (by decide) _ _ _ (by decide) (by decide)).trans hppn,
      (extractLsb'_setField_other (by decide) _ _ _ (by decide) (by decide)).trans hasid, ?_⟩
    rw [extractLsb'_setField_same (by decide) _ _ _ (by decide), if_neg fun h => hm (.inr h)]
    rfl

/-- What a write of `satp` stores is legal. -/
theorem satpLegal_hook {xl : Xlen} {v : Word} (hv : Fits xl v) : SatpLegal xl (satpHook xl v) := by
  refine ⟨?_, ?_, ?_⟩ <;> rintro rfl
  · refine within_iff.2 fun k hk hm => ?_
    have hrange : ∀ k < 64, bit 0x803FFFFF k = false → 22 ≤ k ∧ k < 31 ∨ 32 ≤ k := by decide
    rw [bit_satpHook_rv32 v k hk]
    rcases hrange k hk hm with h | h
    · simp [h]
    · rw [fits_iff.1 hv k hk h, Bool.false_and]
  · exact (satpHook_rv64_fields v).2.1
  · have hmode := (satpHook_rv64_fields v).2.2
    split at hmode
    · rename_i h
      rw [hmode]
      exact .inr h
    · exact .inl hmode

/-! ### `pmpcfg` registers -/

theorem pmpPerReg_eq (xl : Xlen) : pmpPerReg xl = xl.bits / 8 := by cases xl <;> rfl

/-- Each entry after a write of the bytes of a `pmpcfg` register. -/
theorem setPmpcfgBytes_getElem (cfg : Vector (BitVec 8) 64) (first n : Nat) (v : Word) (k : Nat) (hk : k < 64) :
    (setPmpcfgBytes cfg first n v)[k] =
      if first ≤ k ∧ k < first + n then v.extractLsb' (8 * (k - first)) 8 &&& pmpcfgMask else cfg[k] := by
  induction n generalizing cfg first v with
  | zero => rw [if_neg (show ¬(first ≤ k ∧ k < first + 0) by omega)]; rfl
  | succ n ih =>
    rw [setPmpcfgBytes, ih]
    by_cases h : first + 1 ≤ k ∧ k < first + 1 + n
    · rw [if_pos h, if_pos (show first ≤ k ∧ k < first + (n + 1) by omega)]
      congr 1
      apply BitVec.eq_of_getLsbD_eq
      intro i hi
      simp [hi, show 8 + (8 * (k - (first + 1)) + i) = 8 * (k - first) + i by omega]
    · rw [if_neg h, Vector.getElem_setIfInBounds]
      by_cases hf : first = k
      · subst hf
        simp [BitVec.setWidth_eq_extractLsb']
      · rw [if_neg hf, if_neg (show ¬(first ≤ k ∧ k < first + (n + 1)) by omega)]

/-- Each byte that a read of a `pmpcfg` register gives. -/
theorem pmpcfgBytes_byte (cfg : Vector (BitVec 8) 64) (first n : Nat) (hn : n ≤ 8) {j : Nat} (hj : j < n) :
    (pmpcfgBytes cfg first n).extractLsb' (8 * j) 8 = cfg.getD (first + j) 0 := by
  induction n generalizing first j with
  | zero => omega
  | succ n ih =>
    apply BitVec.eq_of_getLsbD_eq
    intro i hi
    simp only [pmpcfgBytes, BitVec.getLsbD_extractLsb', hi, decide_true, Bool.true_and, BitVec.getLsbD_or,
      BitVec.getLsbD_shiftLeft, BitVec.getLsbD_setWidth]
    cases j with
    | zero => simp [hi, show i < 64 by omega]
    | succ j =>
      have hb := congrArg (·.getLsbD i) (ih (first + 1) (by omega) (show j < n by omega))
      simp only [BitVec.getLsbD_extractLsb', hi, decide_true, Bool.true_and] at hb
      rw [show 8 * (j + 1) + i - 8 = 8 * j + i by omega, hb, show first + 1 + j = first + (j + 1) by omega]
      have hlow : ∀ b : Byte, b.getLsbD (8 * (j + 1) + i) = false := fun _ => BitVec.getLsbD_of_ge _ _ (by omega)
      simp [hlow, show 8 * (j + 1) + i < 64 by omega, show ¬8 * (j + 1) + i < 8 by omega]

/-! ### `stimecmp` -/

/-- The callback of `stimecmp`: the timer bit says whether the uptime has reached the value; a value in the future is
registered. -/
theorem stimecmpCallback_cases (s : State) :
    (s.stimecmp.toNat ≤ s.uptime.toNat ∧ stimecmpCallback s = { s with mip := setBit s.mip 5 true })
    ∨ (s.uptime.toNat < s.stimecmp.toNat
      ∧ stimecmpCallback s = { s with mip := setBit s.mip 5 false, timerDeadline := some s.stimecmp }) := by
  unfold stimecmpCallback
  by_cases h : s.stimecmp ≤ s.uptime
  · exact .inl ⟨h, if_pos h⟩
  · exact .inr ⟨Nat.lt_of_not_le h, if_neg h⟩

end Sys2Proof.Machine
end

section
/-!
The obligations about the CSR writes and reads: `mstatus` and `sstatus`, the other write-hooks, the PMP registers and
the timer compare.
-/

namespace Sys2Proof.Machine

/-- Settles O38: the bits are those of `bit_mstatusHook` and `bit_sstatusHook`. -/
theorem mstatusWrites : Obligations.MstatusWrites := by
  intro v s
  refine ⟨fun k hk => bit_mstatusHook _ _ _ k hk, rfl, fun k hk => bit_sstatusHook _ _ _ k hk, rfl, rfl, fun k hk => ?_⟩
  have hmask : ∀ xl, ∀ k < 64, bit (sstatusRmask xl) k =
      (bit sstatusWmask k || decide (k = xl.bits - 1) || (xl == .rv64 && (k == 32 || k == 33))) := by
    intro xl; cases xl <;> decide
  rw [csrRead, bit_and, hmask _ k hk]
  rfl

/-- Settles O40: a `pmpcfg` register is the bytes of its entries, a `pmpaddr` is masked into its own entry. -/
theorem pmpRegisters : Obligations.PmpRegisters := by
  intro n j v s hn
  refine ⟨fun k => ?_, rfl, fun k h1 h2 => ?_, ?_, rfl, fun k hk => ?_⟩
  · rw [← pmpPerReg_eq]
    exact setPmpcfgBytes_getElem s.pmpcfg (pmpFirst n) (pmpPerReg s.cfg.xlen) v k.val k.isLt
  · rw [← pmpPerReg_eq] at h2
    have hb := pmpcfgBytes_byte s.pmpcfg (pmpFirst n) (pmpPerReg s.cfg.xlen) (by cases s.cfg.xlen <;> decide)
      (show k.val - 4 * n.toNat < pmpPerReg s.cfg.xlen by omega)
    rw [csrRead, hb, show pmpFirst n + (k.val - 4 * n.toNat) = k.val by unfold pmpFirst; omega]
    simp [Vector.getD]
  · simp only [csrRead, csrWrite, Vector.getElem_set_self, BitVec.toNat_and]
    cases s.cfg.xlen
    · exact Nat.and_two_pow_sub_one_eq_mod v.toNat 32
    · exact Nat.and_two_pow_sub_one_eq_mod v.toNat 54
  · have hne : j.toNat ≠ k.toNat := fun h => hk (BitVec.eq_of_toNat_eq h.symm)
    simp [csrRead, csrWrite, hne]

/-- The 64-bit value that a write of `stimecmp` or of its high half leaves. -/
theorem csrWrite_stimecmp_eq {c : Csr} {s : State} (v : Word) (hc : c = .stimecmp ∨ (c = .stimecmph ∧ s.cfg.xlen = .rv32)) :
    ∃ w : BitVec 64, csrWrite c v s = stimecmpCallback { s with stimecmp := w } ∧ w.toNat =
      (match s.cfg.xlen with
       | .rv64 => v.toNat
       | .rv32 =>
         if c = .stimecmp then s.stimecmp.toNat / 2 ^ 32 * 2 ^ 32 + v.toNat % 2 ^ 32
         else v.toNat % 2 ^ 32 * 2 ^ 32 + s.stimecmp.toNat % 2 ^ 32) := by
  rcases hc with rfl | ⟨rfl, hx⟩
  · exact ⟨setLow s.cfg.xlen s.stimecmp v, rfl, setLow_toNat _ _ _⟩
  · refine ⟨setHigh s.stimecmp v, rfl, ?_⟩
    rw [setHigh_toNat, hx]
    rfl

/-- Settles O41: the two cases of the callback. -/
theorem timerCompareWrites : Obligations.TimerCompareWrites := by
  intro c v s hc
  obtain ⟨w, hw, hnum⟩ := csrWrite_stimecmp_eq v hc
  have hmip : ∀ b k, k ≠ 5 → bit (setBit s.mip 5 b) k = bit s.mip k := fun b k hk => by
    by_cases h : k < 64
    · rw [bit_setBit _ _ _ _ h, if_neg hk]
    · rw [bit_of_ge _ (by omega), bit_of_ge _ (by omega)]
  rw [hw]
  rcases stimecmpCallback_cases { s with stimecmp := w } with ⟨hle, h⟩ | ⟨hlt, h⟩ <;> rw [h]
  · refine ⟨hnum, ?_, hmip true, fun hlt => ?_, fun _ => rfl, rfl⟩
    · rw [bit_setBit _ _ _ _ (by decide), if_pos rfl]
      exact (decide_eq_true hle).symm
    · exact absurd hlt (Nat.not_lt.2 hle)
  · refine ⟨hnum, ?_, hmip false, fun _ => rfl, fun hle => ?_, rfl⟩
    · rw [bit_setBit _ _ _ _ (by decide), if_pos rfl]
      exact (decide_eq_false (Nat.not_le.2 hlt)).symm
    · exact absurd hle (Nat.not_le.2 hlt)

/-- Settles O39: the hooks bit by bit, the rest by what each write and read is. -/
theorem writeHooks : Obligations.WriteHooks := by
  intro v s
  have hsatp : (s.cfg.xlen = .rv32 → ∀ k, k < 32 →
        bit (csrWrite .satp v s).satp k = (bit v k && !(decide (22 ≤ k) && decide (k < 31))))
      ∧ (s.cfg.xlen = .rv64 → (csrWrite .satp v s).satp.extractLsb' 0 44 = v.extractLsb' 0 44
        ∧ (csrWrite .satp v s).satp.extractLsb' 44 16 = 0#16
        ∧ (csrWrite .satp v s).satp.extractLsb' 60 4 =
          if v.extractLsb' 60 4 = 8#4 ∨ v.extractLsb' 60 4 = 9#4 ∨ v.extractLsb' 60 4 = 10#4 then v.extractLsb' 60 4
          else 0#4) := by
    refine ⟨fun hx k hk => ?_, fun hx => ?_⟩ <;> simp only [csrWrite, hx]
    · exact bit_satpHook_rv32 v k (by omega)
    · exact satpHook_rv64_fields v
  refine ⟨fun k hk => bit_misaHook _ _ k hk, rfl, rfl, rfl, rfl, rfl, rfl, rfl, rfl, rfl, rfl, rfl, rfl, rfl, rfl,
    hsatp.1, hsatp.2, rfl, rfl, rfl, rfl, rfl, rfl, rfl, rfl, rfl, rfl, rfl, setLow_toNat _ _ _, rfl, setHigh_toNat _ _,
    rfl, setLow_toNat _ _ _, rfl, setHigh_toNat _ _, rfl, rfl, rfl, rfl, rfl, rfl, rfl, rfl, rfl, rfl, rfl, rfl, rfl, rfl,
    rfl, rfl, rfl, rfl, rfl, rfl, rfl, rfl, rfl, rfl, rfl, ?_, ?_, ?_, ?_, lowHalf_toNat _ _, highHalf_toNat _,
    lowHalf_toNat _ _, highHalf_toNat _⟩
  · rintro c (rfl | rfl) <;> exact lowHalf_toNat _ _
  · rintro c (rfl | rfl) <;> exact highHalf_toNat _
  · rintro c (rfl | rfl) <;> exact lowHalf_toNat _ _
  · rintro c (rfl | rfl) <;> exact highHalf_toNat _

end Sys2Proof.Machine
end

section
/-!
Everything an instruction can do to the state: plain changes of the registers, memory, the reservations and the
floating-point status, or one of the few effects that reach further (a trap, the halt, a fence, a return, a CSR write).
-/

namespace Sys2Proof.Machine

variable {i : Instr} {s t : State}

/-! ### Plain changes -/

/-- Changes that leave alone the mode, the icache, every pending mark and every CSR but `fcsr` and the FS and SD bits of
`mstatus`. -/
inductive Plain (s : State) : State → Prop
  | refl : Plain s s
  | x {t : State} (rd : Reg) (v : Word) : Plain s t → Plain s (writeX rd v t)
  | f {t : State} (rd : FReg) (v : BitVec 64) : Plain s t → Plain s (writeF rd v t)
  | fcsr {t : State} (v : BitVec 8) : Plain s t → Plain s { t with fcsr := v }
  | dirty {t : State} : Plain s t → Plain s (dirtyFS t)
  | npc {t : State} (v : Word) : Fits t.cfg.xlen v → Plain s t → Plain s { t with npc := v }
  | mem {t : State} (pa n : Nat) (v : Word) : Plain s t → Plain s { t with mem := writeBytes t.mem pa n v }
  | resv {t : State} (r : List (Nat × BitVec 64)) :
      (keysSorted t.resv → keysSorted r) → Plain s t → Plain s { t with resv := r }

/-- What a plain change leaves alone. -/
theorem Plain.frame (h : Plain s t) : ∃ x f npc fcsr mstatus mem resv, t =
    { s with x := x, f := f, npc := npc, fcsr := fcsr, mstatus := mstatus, mem := mem, resv := resv } := by
  induction h with
  | refl => exact ⟨_, _, _, _, _, _, _, rfl⟩
  | x rd v _ ih =>
    obtain ⟨x, f, npc, fcsr, mstatus, mem, resv, rfl⟩ := ih
    unfold writeX
    split
    · exact ⟨_, _, _, _, _, _, _, rfl⟩
    · exact ⟨_, _, _, _, _, _, _, rfl⟩
  | f | fcsr | dirty | npc | mem | resv =>
    rename_i ih
    obtain ⟨x, f, npc, fcsr, mstatus, mem, resv, rfl⟩ := ih
    exact ⟨_, _, _, _, _, _, _, rfl⟩

theorem Plain.cfg_eq (h : Plain s t) : t.cfg = s.cfg := by
  obtain ⟨x, f, npc, fcsr, mstatus, mem, resv, rfl⟩ := h.frame; rfl

theorem Plain.priv_eq (h : Plain s t) : t.priv = s.priv := by
  obtain ⟨x, f, npc, fcsr, mstatus, mem, resv, rfl⟩ := h.frame; rfl

theorem Plain.trapPending_eq (h : Plain s t) : t.trapPending = s.trapPending := by
  obtain ⟨x, f, npc, fcsr, mstatus, mem, resv, rfl⟩ := h.frame; rfl

theorem Plain.icache_eq (h : Plain s t) : t.icache = s.icache := by
  obtain ⟨x, f, npc, fcsr, mstatus, mem, resv, rfl⟩ := h.frame; rfl

/-- A plain change leaves every bit of `mstatus` but FS and SD. -/
theorem Plain.bit_mstatus (h : Plain s t) {k : Nat} (hk : k < 64) (h13 : k ≠ 13) (h14 : k ≠ 14)
    (hsd : k ≠ s.cfg.xlen.bits - 1) : bit t.mstatus k = bit s.mstatus k := by
  induction h with
  | refl => rfl
  | f | fcsr | npc | mem | resv => assumption
  | x rd v _ ih => rw [writeX_mstatus, ih]
  | dirty hp ih => rw [dirtyFS_mstatus, bit_dirtied _ _ _ hk, if_neg (by simp [h13, h14, hp.cfg_eq, hsd]), ih]

theorem Plain.jumpRel (h : Plain s t) (offset : Word) : Plain s (jumpRel offset t) := h.npc _ (fits_norm _ _)

theorem Plain.jumpTo (h : Plain s t) (target : Word) : Plain s (jumpTo target t) := h.npc _ (fits_norm _ _)

theorem Plain.branch (h : Plain s t) (taken : Bool) (offset : Word) : Plain s (branch taken offset t) := by
  unfold Machine.branch
  split
  · exact h.jumpRel offset
  · exact h

theorem Plain.writeFDirty (h : Plain s t) (rd : FReg) (v : BitVec 64) : Plain s (writeFDirty rd v t) := (h.f rd v).dirty

theorem Plain.accrue (h : Plain s t) (fl : BitVec 5) : Plain s (accrue fl t) := by
  unfold Machine.accrue
  split
  · exact h
  · exact (h.fcsr _).dirty

theorem Plain.writeFResult (h : Plain s t) (fmt : Fmt) (rd : FReg) (r : BitVec 64 × BitVec 5) :
    Plain s (writeFResult fmt rd r t) := (h.writeFDirty rd _).accrue _

theorem Plain.writeXResult (h : Plain s t) (rd : Reg) (v : Word) (fl : BitVec 5) :
    Plain s (writeXResult rd v fl t) := (h.x rd v).accrue fl

/-- A write of one of the three floating-point CSRs is a plain change (rule R572). -/
theorem Plain.csrWrite_fp {c : Csr} (hc : isFpCsr c = true) (v : Word) (s : State) : Plain s (csrWrite c v s) := by
  have : c = .fflags ∨ c = .frm ∨ c = .fcsr := by simpa [isFpCsr, or_assoc] using hc
  rcases this with rfl | rfl | rfl <;> exact (Plain.refl.fcsr _).dirty

/-! ### The effect of an instruction -/

/-- What an instruction can do. A trap's value fits XLEN where `pc` does. -/
inductive Effect (i : Instr) (s : State) : State → Prop
  | plain {t : State} : Plain s t → Effect i s t
  | trap {u : State} (e : Exn) :
      Plain s u → (Fits s.cfg.xlen s.pc → Fits s.cfg.xlen e.tval) → Effect i s (deliver e u)
  | halt : Effect i s (haltHart s)
  | fenceI (imm : BitVec 12) (rs1 rd : Reg) : i = .fenceI imm rs1 rd → Effect i s (flushIcache s)
  | sfence (rs1 rs2 : Reg) : i = .sfenceVma rs1 rs2 → s.priv ≠ .user → Effect i s (flushIcache s)
  | mret : i = .mret → s.priv = .machine → Effect i s (returnM s)
  | sret : i = .sret → s.priv ≠ .user → Effect i s (returnS s)
  | csr (rd : Reg) (a : CsrAddr) (c : Csr) (v : Word) :
      Csr.ofAddr s.cfg.xlen a = some c → csrAllowed a c true s = true → Fits s.cfg.xlen v →
      Effect i s (writeX rd (csrRead c s) (csrWrite c v s))

theorem Effect.illegal {bits : Word} (hb : Fits s.cfg.xlen bits) : Effect i s (illegal bits s) :=
  .trap ⟨.illegalInstr, bits⟩ .refl fun _ => hb

/-! ### Accesses -/

/-- A failed address check raises with the access's address. -/
theorem dataAddr_error_tval {acc : Access} {ea : Word} {n : Nat} {e : Exn} (h : dataAddr acc ea n s = .error e) :
    e.tval = ea := by
  unfold dataAddr at h
  split at h
  · cases h; rfl
  · split at h
    · cases h; rfl
    · split at h
      · cases h
      · cases h; rfl

theorem memRead_error_tval {ea : Word} {n : Nat} {e : Exn} (h : memRead ea n s = .error e) : e.tval = ea := by
  unfold memRead at h
  split at h
  · rename_i hd
    cases h
    exact dataAddr_error_tval hd
  · split at h
    · cases h; rfl
    · cases h

theorem memWrite_error_tval {ea : Word} {n : Nat} {v : Word} {e : Exn} (h : memWrite ea n v s = .error e) :
    e.tval = ea := by
  unfold memWrite at h
  split at h
  · rename_i hd
    cases h
    exact dataAddr_error_tval hd
  · split at h
    · cases h; rfl
    · cases h

theorem plain_of_memWrite {ea : Word} {n : Nat} {v : Word} (h : memWrite ea n v s = .ok t) : Plain s t := by
  unfold memWrite at h
  split at h
  · cases h
  · split at h
    · cases h
    · rename_i hw
      cases h
      obtain rfl | rfl := physWrite_cases hw
      · exact .refl
      · exact .mem _ _ _ .refl

theorem Effect.loadX {ea : Word} (hea : Fits s.cfg.xlen ea) (rd : Reg) (n : Nat) (ext : Ext) :
    Effect i s (loadX rd ea n ext s) := by
  unfold Machine.loadX
  split
  · rename_i h
    exact .trap _ .refl fun _ => memRead_error_tval h ▸ hea
  · exact .plain (.x rd _ .refl)

theorem Effect.storeBytes {ea : Word} (hea : Fits s.cfg.xlen ea) (n : Nat) (v : Word) :
    Effect i s (storeBytes ea n v s) := by
  unfold Machine.storeBytes
  split
  · rename_i h
    exact .trap _ .refl fun _ => memWrite_error_tval h ▸ hea
  · rename_i h
    exact .plain (plain_of_memWrite h)

/-- The enable check before an effect (rule R663). -/
theorem Effect.fpEnabled {bits : Word} (hb : Fits s.cfg.xlen bits) {k : State → State} (hk : Effect i s (k s)) :
    Effect i s (fpEnabled bits s k) := by
  unfold Machine.fpEnabled
  split
  · exact .illegal hb
  · exact hk

/-- The enable and the rounding-mode check before a plain change (rules R663, R665). -/
theorem Effect.fpRounded {bits : Word} (hb : Fits s.cfg.xlen bits) (rm : Rm) {k : Rm → State → State}
    (hk : ∀ m, Plain s (k m s)) : Effect i s (fpRounded bits rm s k) := by
  refine .fpEnabled hb ?_
  split
  · exact .illegal hb
  · exact .plain (hk _)

theorem Effect.loadF {bits ea : Word} (hb : Fits s.cfg.xlen bits) (hea : Fits s.cfg.xlen ea) (fmt : Fmt) (rd : FReg) :
    Effect i s (loadF bits fmt rd ea s) := by
  refine .fpEnabled hb ?_
  split
  · rename_i h
    exact .trap _ .refl fun _ => memRead_error_tval h ▸ hea
  · exact .plain (Plain.refl.writeFDirty rd _)

theorem Effect.storeF {bits ea : Word} (hb : Fits s.cfg.xlen bits) (hea : Fits s.cfg.xlen ea) (fmt : Fmt) (rs2 : FReg) :
    Effect i s (storeF bits fmt rs2 ea s) :=
  .fpEnabled hb (.storeBytes hea _ _)

/-! ### Atomics -/

theorem Effect.loadReserved (n : Nat) (rd rs1 : Reg) : Effect i s (loadReserved n rd rs1 s) := by
  unfold Machine.loadReserved
  dsimp only
  split
  · rename_i h
    exact .trap _ .refl fun _ => dataAddr_error_tval h ▸ fits_readX rs1 s
  · split
    · exact .trap _ .refl fun _ => fits_readX rs1 s
    · exact .plain ((Plain.refl.resv _ keysSorted_mapInsert).x rd _)

theorem Effect.storeConditional (n : Nat) (rd rs1 rs2 : Reg) : Effect i s (storeConditional n rd rs1 rs2 s) := by
  unfold Machine.storeConditional
  dsimp only
  split
  · rename_i h
    exact .trap _ .refl fun _ => dataAddr_error_tval h ▸ fits_readX rs1 s
  · split
    · exact .plain ((Plain.refl.resv [] fun _ => .nil).x rd 1)
    · have hp : ∀ pa, Plain s { s with resv := mapErase pa s.resv } := fun pa => Plain.refl.resv _ keysSorted_mapErase
      split
      · exact .trap _ (hp _) fun _ => fits_readX rs1 s
      · rename_i hc
        obtain rfl | rfl := physCas_cases hc
        · exact .plain ((hp _).x rd _)
        · exact .plain (((hp _).mem _ _ _).x rd _)

theorem Effect.amo (kind : AtomicKind) (n : Nat) (rd rs1 rs2 : Reg) : Effect i s (amo kind n rd rs1 rs2 s) := by
  unfold Machine.amo
  dsimp only
  split
  · rename_i h
    exact .trap _ .refl fun _ => dataAddr_error_tval h ▸ fits_readX rs1 s
  · split
    · exact .trap _ .refl fun _ => fits_readX rs1 s
    · rename_i hc
      obtain rfl | ⟨w, rfl⟩ := physAtomic_cases hc
      · exact .plain (.x rd _ .refl)
      · exact .plain ((Plain.refl.mem _ _ _).x rd _)

/-! ### Jumps, EBREAK and the CSR instructions -/

theorem Effect.jumpReg (rd rs1 : Reg) (offset : Word) (len : Nat) : Effect i s (jumpReg rd rs1 offset len s) :=
  .plain ((Plain.refl.jumpTo _).x rd _)

theorem Effect.breakOrHalt : Effect i s (breakOrHalt s) := by
  rcases breakOrHalt_cases s with ⟨-, h⟩ | ⟨-, h⟩ <;> rw [h]
  · exact .halt
  · exact .trap _ .refl id

theorem Effect.csrOp {bits : Word} (hb : Fits s.cfg.xlen bits) (rd : Reg) (a : CsrAddr) (writes : Bool)
    (new : Word → Word) : Effect i s (csrOp bits rd a writes new s) := by
  rcases csrOp_cases bits rd a writes new s with h | ⟨c, hc, ha, h⟩ <;> rw [h]
  · exact .illegal hb
  · cases writes
    · exact .plain (.x rd _ .refl)
    · exact .csr rd a c _ hc ha (fits_norm _ _)

end Sys2Proof.Machine
end

section
/-!
The effect of every instruction, by the shared operation that its meaning calls.
-/

namespace Sys2Proof.Machine

/-- An instruction answers a next state, and it has reached it by one of the effects. -/
theorem exec_effect (i : Instr) (s : State) : ∃ t, exec i s = .next t ∧ Effect i s t := by
  cases i
  case lui | auipc | addi | slti | sltiu | xori | ori | andi | slli | srli | srai | add | sub | sll | slt | sltu | xor
      | srl | sra | or | and | addiw | slliw | srliw | sraiw | addw | subw | sllw | srlw | sraw | mul | mulh | mulhsu
      | mulhu | div | divu | rem | remu | mulw | divw | divuw | remw | remuw | cAddi4spn | cNop | cAddi | cAddiw | cLi
      | cAddi16sp | cLui | cSrli | cSrai | cAndi | cSub | cXor | cOr | cAnd | cSubw | cAddw | cSlli | cMv | cAdd =>
    exact ⟨_, rfl, .plain (.x _ _ .refl)⟩
  case jal | cJal => exact ⟨_, rfl, .plain ((Plain.refl.jumpRel _).x _ _)⟩
  case cJ => exact ⟨_, rfl, .plain (Plain.refl.jumpRel _)⟩
  case jalr | cJr | cJalr =>
    exact ⟨_, rfl, .jumpReg _ _ _ _⟩
  case beq | bne | blt | bge | bltu | bgeu | cBeqz | cBnez =>
    exact ⟨_, rfl, .plain (Plain.refl.branch _ _)⟩
  case lb | lh | lw | lbu | lhu | lwu | ld | cLw | cLd | cLwsp | cLdsp =>
    exact ⟨_, rfl, .loadX (fits_norm _ _) _ _ _⟩
  case sb | sh | sw | sd | cSw | cSd | cSwsp | cSdsp =>
    exact ⟨_, rfl, .storeBytes (fits_norm _ _) _ _⟩
  case flw | fld | cFlw | cFld | cFlwsp | cFldsp =>
    exact ⟨_, rfl, .loadF (fits_instrBits _ _) (fits_norm _ _) _ _⟩
  case fsw | fsd | cFsw | cFsd | cFswsp | cFsdsp =>
    exact ⟨_, rfl, .storeF (fits_instrBits _ _) (fits_norm _ _) _ _⟩
  case lrW | lrD => exact ⟨_, rfl, .loadReserved _ _ _⟩
  case scW | scD => exact ⟨_, rfl, .storeConditional _ _ _ _⟩
  case amoswapW | amoaddW | amoxorW | amoandW | amoorW | amominW | amomaxW | amominuW | amomaxuW | amoswapD | amoaddD
      | amoxorD | amoandD | amoorD | amominD | amomaxD | amominuD | amomaxuD =>
    exact ⟨_, rfl, .amo _ _ _ _ _⟩
  case faddS | fsubS | fmulS | fdivS | fsqrtS | fmaddS | fmsubS | fnmsubS | fnmaddS | faddD | fsubD | fmulD | fdivD |
      fsqrtD | fmaddD | fmsubD | fnmsubD | fnmaddD | fcvtSW | fcvtSWu | fcvtSL | fcvtSLu | fcvtDW | fcvtDWu | fcvtDL |
      fcvtDLu | fcvtSD | fcvtDS =>
    exact ⟨_, rfl, .fpRounded (fits_instrBits _ _) _ fun _ => Plain.refl.writeFResult _ _ _⟩
  case fcvtWS | fcvtWuS | fcvtLS | fcvtLuS | fcvtWD | fcvtWuD | fcvtLD | fcvtLuD =>
    exact ⟨_, rfl, .fpRounded (fits_instrBits _ _) _ fun _ => Plain.refl.writeXResult _ _ _⟩
  case fsgnjS | fsgnjnS | fsgnjxS | fsgnjD | fsgnjnD | fsgnjxD | fmvWX | fmvDX =>
    exact ⟨_, rfl, .fpEnabled (fits_instrBits _ _) (.plain (Plain.refl.writeFDirty _ _))⟩
  case fminS | fmaxS | fminD | fmaxD =>
    exact ⟨_, rfl, .fpEnabled (fits_instrBits _ _) (.plain (Plain.refl.writeFResult _ _ _))⟩
  case feqS | fltS | fleS | feqD | fltD | fleD =>
    exact ⟨_, rfl, .fpEnabled (fits_instrBits _ _) (.plain (Plain.refl.writeXResult _ _ _))⟩
  case fclassS | fclassD | fmvXW | fmvXD =>
    exact ⟨_, rfl, .fpEnabled (fits_instrBits _ _) (.plain (.x _ _ .refl))⟩
  case fence | wfi => exact ⟨_, rfl, .plain .refl⟩
  case csrrw | csrrs | csrrc | csrrwi | csrrsi | csrrci =>
    exact ⟨_, rfl, .csrOp (fits_instrBits _ _) _ _ _ _⟩
  case ebreak | cEbreak => exact ⟨_, rfl, .breakOrHalt⟩
  case cIllegal => exact ⟨_, rfl, .illegal (fits_instrBits _ _)⟩
  case fenceI imm rs1 rd => exact ⟨_, rfl, .fenceI imm rs1 rd rfl⟩
  case ecall => exact ⟨_, rfl, .trap _ .refl fun _ => fits_zero _⟩
  case sret =>
    refine ⟨_, rfl, ?_⟩
    split
    · exact .illegal (fits_instrBits _ _)
    · rename_i h
      exact .sret rfl h
  case mret =>
    refine ⟨_, rfl, ?_⟩
    split
    · rename_i h
      exact .mret rfl h
    · exact .illegal (fits_instrBits _ _)
  case sfenceVma rs1 rs2 =>
    refine ⟨_, rfl, ?_⟩
    split
    · exact .illegal (fits_instrBits _ _)
    · rename_i h
      exact .sfence rs1 rs2 rfl h

theorem Effect.of_exec {i : Instr} {s t : State} (h : exec i s = .next t) : Effect i s t := by
  obtain ⟨u, hu, he⟩ := exec_effect i s
  rw [h] at hu
  cases hu
  exact he

end Sys2Proof.Machine
end

section
/-!
The invariant within a step: what every effect of an instruction, every trap and every arrival keeps.
-/

namespace Sys2Proof.Machine

variable {i : Instr} {s t : State}

/-- The invariant but for what may be pending while a step runs. -/
structure State.Legal (s : State) : Prop where
  maps   : MapsSorted s
  csrs   : CsrsLegal s
  widths : WidthsLegal s

theorem State.Inv.legal (h : s.Inv) : s.Legal := ⟨h.maps, h.csrs, h.widths⟩

/-! ### Plain changes -/

theorem State.Legal.writeX (h : s.Legal) (rd : Reg) (v : Word) : (writeX rd v s).Legal := by
  unfold Machine.writeX
  split
  · exact h
  · rename_i hr
    have h0 : rd.toNat ≠ 0 := fun e => hr (BitVec.eq_of_toNat_eq e)
    refine ⟨{ h.maps with }, { h.csrs with }, { h.widths with x := fun k => ?_, x0 := ?_ }⟩
    · simp only [Fin.getElem_fin, Vector.getElem_set]
      split
      · exact fits_norm _ _
      · exact h.widths.x k
    · simpa [Vector.getElem_set, h0] using h.widths.x0

theorem State.Legal.npc (h : s.Legal) {v : Word} (hv : Fits s.cfg.xlen v) : State.Legal { s with npc := v } :=
  ⟨{ h.maps with }, { h.csrs with }, { h.widths with npc := hv }⟩

theorem State.Legal.dirtyFS (h : s.Legal) : (dirtyFS s).Legal :=
  ⟨{ h.maps with }, { h.csrs with mstatus := h.csrs.mstatus.dirtied }, { h.widths with }⟩

theorem Plain.legal (hp : Plain s t) (h : s.Legal) : t.Legal := by
  induction hp with
  | refl => exact h
  | x rd v _ ih => exact ih.writeX rd v
  | f rd v _ ih => exact ⟨{ ih.maps with }, { ih.csrs with }, { ih.widths with }⟩
  | fcsr v _ ih => exact ⟨{ ih.maps with }, { ih.csrs with }, { ih.widths with }⟩
  | dirty _ ih => exact ih.dirtyFS
  | npc v hv _ ih => exact ih.npc hv
  | mem pa n v _ ih =>
    exact ⟨{ ih.maps with mem := Memory.wf_writeBytes ih.maps.mem pa n v }, { ih.csrs with }, { ih.widths with }⟩
  | resv r hr _ ih => exact ⟨{ ih.maps with resv := hr ih.maps.resv }, { ih.csrs with }, { ih.widths with }⟩

/-! ### Traps and returns -/

theorem fits_trapVector {xl : Xlen} {tvec : Word} (h : Fits xl tvec) (code : Nat) : Fits xl (trapVector xl tvec code) := by
  unfold trapVector
  dsimp only
  split
  · exact fits_norm _ _
  · exact h.and _

theorem fits_irqCause (xl : Xlen) (i : Irq) : Fits xl (irqCause xl i) :=
  (fits_ofNat xl (by cases i <;> decide)).setBit (by cases xl <;> decide) true

theorem State.Legal.enterS (h : s.Legal) {cause : Word} (hc : Fits s.cfg.xlen cause) (code : Nat) :
    (enterS cause code s).Legal := by
  have hm : MstatusLegal s.cfg.xlen (Machine.enterS cause code s).mstatus := h.csrs.mstatus.of_bits fun k hk hf => by
    simp only [Machine.enterS, bit_setBit _ _ _ _ hk]
    simp_all [freeMstatusBits]
  exact ⟨{ h.maps with }, { h.csrs with mstatus := hm },
    { h.widths with sepc := h.widths.pc, scause := hc, npc := fits_trapVector h.widths.stvec code }⟩

theorem State.Legal.enterM (h : s.Legal) {cause : Word} (hc : Fits s.cfg.xlen cause) (code : Nat) :
    (enterM cause code s).Legal := by
  have hmpp : bit (BitVec.ofNat 64 s.priv.level) 1 = true → bit (BitVec.ofNat 64 s.priv.level) 0 = true := by
    cases s.priv <;> decide
  have hm : MstatusLegal s.cfg.xlen (Machine.enterM cause code s).mstatus :=
    (h.csrs.mstatus.setMpp hmpp).of_bits fun k hk hf => by
      simp only [Machine.enterM, bit_setBit _ _ _ _ hk]
      simp_all [freeMstatusBits]
  exact ⟨{ h.maps with }, { h.csrs with mstatus := hm },
    { h.widths with mepc := h.widths.pc, mcause := hc, npc := fits_trapVector h.widths.mtvec code }⟩

theorem State.Legal.deliver (h : s.Legal) {e : Exn} (he : Fits s.cfg.xlen e.tval) : (deliver e s).Legal := by
  have hc : Fits s.cfg.xlen (BitVec.ofNat 64 e.cause.code) := fits_ofNat _ (by cases e.cause <;> decide)
  unfold Machine.deliver
  dsimp only
  split
  · have h' := h.enterS hc e.cause.code
    exact ⟨{ h'.maps with }, { h'.csrs with }, { h'.widths with stval := he }⟩
  · have h' := h.enterM hc e.cause.code
    exact ⟨{ h'.maps with }, { h'.csrs with }, { h'.widths with mtval := he }⟩

theorem State.Legal.deliverInterrupt (h : s.Legal) (i : Irq) (toS : Bool) : (deliverInterrupt i toS s).Legal := by
  unfold Machine.deliverInterrupt
  split
  · exact h.enterS (fits_irqCause _ _) _
  · exact h.enterM (fits_irqCause _ _) _

theorem State.Legal.returnM (h : s.Legal) : (returnM s).Legal := by
  have hm : MstatusLegal s.cfg.xlen (Machine.returnM s).mstatus :=
    (h.csrs.mstatus.of_bits (m' := setBit (setBit s.mstatus 3 (bit s.mstatus 7)) 7 true) fun k hk hf => by
      simp only [bit_setBit _ _ _ _ hk]
      simp_all [freeMstatusBits]).setMpp (by simp)
  exact ⟨{ h.maps with }, { h.csrs with mstatus := hm }, { h.widths with npc := h.widths.mepc }⟩

theorem State.Legal.returnS (h : s.Legal) : (returnS s).Legal := by
  have hm : MstatusLegal s.cfg.xlen (Machine.returnS s).mstatus := h.csrs.mstatus.of_bits fun k hk hf => by
    simp only [Machine.returnS, bit_setBit _ _ _ _ hk]
    simp_all [freeMstatusBits]
  exact ⟨{ h.maps with }, { h.csrs with mstatus := hm }, { h.widths with npc := h.widths.sepc }⟩

theorem State.Legal.haltHart (h : s.Legal) : (haltHart s).Legal :=
  ⟨{ h.maps with }, { h.csrs with }, { h.widths with haltPc := h.widths.pc, haltCode := fits_readX 10 s }⟩

theorem State.Legal.flushIcache (h : s.Legal) : (flushIcache s).Legal :=
  ⟨{ h.maps with icache := .nil }, { h.csrs with }, { h.widths with }⟩

/-! ### CSR writes -/

theorem bit_tvecHook_one (v : Word) : bit (tvecHook v) 1 = false := by simp [tvecHook, bit]

/-- Setting an interrupt bit keeps `mip` within the six interrupts. -/
theorem State.Legal.setMip (h : s.Legal) {k : Nat} (hk : bit mieMask k = true) (b : Bool) :
    State.Legal { s with mip := setBit s.mip k b } :=
  ⟨{ h.maps with }, { h.csrs with mip := h.csrs.mip.setBit hk b }, { h.widths with }⟩

theorem State.Legal.stimecmpCallback (h : s.Legal) : (stimecmpCallback s).Legal := by
  rcases stimecmpCallback_cases s with ⟨-, e⟩ | ⟨-, e⟩ <;> rw [e]
  · exact h.setMip (by decide) true
  · have h' := h.setMip (k := 5) (by decide) false
    exact ⟨{ h'.maps with }, { h'.csrs with }, { h'.widths with }⟩

/-- A write of a value that fits XLEN keeps every CSR legal. -/
theorem State.Legal.csrWrite (h : s.Legal) {v : Word} (hv : Fits s.cfg.xlen v) (c : Csr) : (csrWrite c v s).Legal := by
  cases c with
  | fflags | frm | fcsr => exact (Plain.csrWrite_fp rfl v s).legal h
  | sstatus | mstatus =>
    exact ⟨{ h.maps with }, { h.csrs with mstatus := h.csrs.mstatus.hook _ }, { h.widths with }⟩
  | misa => exact ⟨{ h.maps with }, { h.csrs with misa := h.csrs.misa.hook v }, { h.widths with }⟩
  | medeleg => exact ⟨{ h.maps with }, { h.csrs with medeleg := within_and _ _ }, { h.widths with }⟩
  | mideleg => exact ⟨{ h.maps with }, { h.csrs with mideleg := within_and _ _ }, { h.widths with }⟩
  | mie => exact ⟨{ h.maps with }, { h.csrs with mie := within_and _ _ }, { h.widths with }⟩
  | sie => exact ⟨{ h.maps with }, { h.csrs with mie := h.csrs.mie.mergeMask (by decide) v }, { h.widths with }⟩
  | mip | sip => exact ⟨{ h.maps with }, { h.csrs with mip := h.csrs.mip.mergeMask (by decide) v }, { h.widths with }⟩
  | mtvec =>
    exact ⟨{ h.maps with }, { h.csrs with mtvec := bit_tvecHook_one v }, { h.widths with mtvec := hv.and _ }⟩
  | stvec =>
    exact ⟨{ h.maps with }, { h.csrs with stvec := bit_tvecHook_one v }, { h.widths with stvec := hv.and _ }⟩
  | mcounteren => exact ⟨{ h.maps with }, { h.csrs with mcounteren := within_and _ _ }, { h.widths with }⟩
  | scounteren => exact ⟨{ h.maps with }, { h.csrs with scounteren := within_and _ _ }, { h.widths with }⟩
  | satp => exact ⟨{ h.maps with }, { h.csrs with satp := satpLegal_hook hv }, { h.widths with }⟩
  | stimecmp | stimecmph =>
    exact State.Legal.stimecmpCallback ⟨{ h.maps with }, { h.csrs with }, { h.widths with }⟩
  | medelegh => exact ⟨{ h.maps with }, { h.csrs with }, { h.widths with medelegh := hv }⟩
  | mscratch => exact ⟨{ h.maps with }, { h.csrs with }, { h.widths with mscratch := hv }⟩
  | mepc => exact ⟨{ h.maps with }, { h.csrs with }, { h.widths with mepc := hv }⟩
  | mcause => exact ⟨{ h.maps with }, { h.csrs with }, { h.widths with mcause := hv }⟩
  | mtval => exact ⟨{ h.maps with }, { h.csrs with }, { h.widths with mtval := hv }⟩
  | sscratch => exact ⟨{ h.maps with }, { h.csrs with }, { h.widths with sscratch := hv }⟩
  | sepc => exact ⟨{ h.maps with }, { h.csrs with }, { h.widths with sepc := hv }⟩
  | scause => exact ⟨{ h.maps with }, { h.csrs with }, { h.widths with scause := hv }⟩
  | stval => exact ⟨{ h.maps with }, { h.csrs with }, { h.widths with stval := hv }⟩
  | pmpcfg n =>
    refine ⟨{ h.maps with }, { h.csrs with pmpcfg := fun k => ?_ }, { h.widths with }⟩
    simp only [Machine.csrWrite, Fin.getElem_fin, setPmpcfgBytes_getElem _ _ _ _ _ k.isLt]
    split
    · rw [BitVec.and_assoc]
      exact BitVec.and_zero
    · exact h.csrs.pmpcfg k
  | pmpaddr n =>
    refine ⟨{ h.maps with }, { h.csrs with pmpaddr := fun k => ?_ }, { h.widths with }⟩
    simp only [Machine.csrWrite, Fin.getElem_fin, Vector.getElem_set]
    split
    · exact within_and _ _
    · exact h.csrs.pmpaddr k
  | mcycle | mcycleh | minstret | minstreth => exact ⟨{ h.maps with }, { h.csrs with }, { h.widths with }⟩
  | mstatush | cycle | time | instret | cycleh | timeh | instreth | mvendorid | marchid | mimpid | mhartid
    | mconfigptr => exact h

theorem Effect.legal (he : Effect i s t) (h : s.Legal) : t.Legal := by
  cases he with
  | plain hp => exact hp.legal h
  | trap e hp htval =>
    refine (hp.legal h).deliver ?_
    rw [hp.cfg_eq]
    exact htval h.widths.pc
  | halt => exact h.haltHart
  | fenceI | sfence => exact h.flushIcache
  | mret => exact h.returnM
  | sret => exact h.returnS
  | csr rd a c v hc ha hv => exact (h.csrWrite hv c).writeX rd _

end Sys2Proof.Machine
end

section
/-!
The invariant over a whole step: the arrivals, the fetch, the instruction, the icache fill and the retire; and the
invariant at reset.
-/

namespace Sys2Proof.Machine

variable {i : Instr} {s t : State}

/-! ### Arrivals -/

theorem State.Legal.lines (h : s.Legal) (calls : List (Irq × Bool)) :
    (calls.foldl (fun s l => applyLine l s) s).Legal := by
  induction calls generalizing s with
  | nil => exact h
  | cons l calls ih =>
    have hcode : bit mieMask l.1.code = true := by cases l.1 <;> decide
    exact ih (h.setMip hcode l.2)

theorem State.Legal.busWrites (h : s.Legal) (writes : List Host.Cell) :
    (writes.foldl (fun s c => applyBusWrite c s) s).Legal := by
  obtain ⟨m, hm, hwf, -⟩ := busWrites_cases writes s
  rw [hm]
  exact ⟨{ h.maps with mem := hwf h.maps.mem }, { h.csrs with }, { h.widths with }⟩

theorem State.Legal.lateWrites (h : s.Legal) (writes : List (Nat × Host.Cell)) :
    (writes.foldl (fun s w => applyLateWrite w s) s).Legal := by
  obtain ⟨m, f, hm, hwf, -⟩ := lateWrites_cases writes s
  rw [hm]
  exact ⟨{ h.maps with mem := hwf h.maps.mem }, { h.csrs with }, { h.widths with }⟩

theorem State.Legal.dropReservations (h : s.Legal) (keys : List Nat) : (dropReservations keys s).Legal := by
  obtain ⟨r, hr, -, -, hsorted⟩ := dropReservations_cases keys s
  rw [hr]
  exact ⟨{ h.maps with resv := hsorted h.maps.resv }, { h.csrs with }, { h.widths with }⟩

theorem State.Legal.advanceUptime (h : s.Legal) (d : BitVec 64) : (advanceUptime d s).Legal :=
  ⟨{ h.maps with }, { h.csrs with }, { h.widths with }⟩

theorem State.Legal.fireTimer (h : s.Legal) (waits : Bool) : (fireTimer waits s).Legal := by
  rcases fireTimer_cases waits s with ⟨d, -, -, -, e⟩ | ⟨-, e⟩ <;> rw [e]
  · have h' := h.setMip (k := 5) (by decide) true
    exact ⟨{ h'.maps with }, { h'.csrs with }, { h'.widths with }⟩
  · exact h

theorem State.Legal.beginStep (h : s.Legal) (inp : StepInput) : (beginStep inp s).Legal := by
  have h0 : State.Legal { s with
      env := s.env.tail, former := [], trapPending := false, wroteMcycle := false, wroteMinstret := false } :=
    ⟨{ h.maps with }, { h.csrs with }, { h.widths with }⟩
  exact ((((h0.lines _).busWrites _).dropReservations _).advanceUptime _).fireTimer _

theorem State.Legal.duringStep (h : s.Legal) (inp : StepInput) : (duringStep inp s).Legal :=
  (h.lines _).lateWrites _

/-! ### The fetch -/

theorem fetchParcel_error_tval {slot : Slot} {va : Word} {e : Exn} (h : fetchParcel slot va s = .error e) :
    e.tval = va := by
  unfold fetchParcel at h
  split at h
  · cases h; rfl
  · split at h
    · split at h
      · cases h; rfl
      · cases h
    · cases h; rfl

theorem fits_fetchWord_tval {e : Exn} (hpc : Fits s.cfg.xlen s.pc) (h : fetchWord s = .error e) :
    Fits s.cfg.xlen e.tval := by
  unfold fetchWord at h
  split at h
  · rename_i h0
    cases h
    exact fetchParcel_error_tval h0 ▸ hpc
  · split at h
    · cases h
    · split at h
      · rename_i h1
        cases h
        exact fetchParcel_error_tval h1 ▸ fits_norm _ _
      · cases h

theorem fits_decodeLine_tval {xl : Xlen} {line : IcacheLine} {hit : Bool} {e : Exn}
    (h : decodeLine xl line hit = .trap e) : Fits xl e.tval := by
  unfold decodeLine at h
  split at h
  · cases h
  · cases h
    exact fits_setWidth xl (le_refl 32) line.word

/-- The trap value of every exception before the handler fits XLEN. -/
theorem fits_fetchDecode_tval {useIcache : Bool} {e : Exn} (hpc : Fits s.cfg.xlen s.pc)
    (h : fetchDecode useIcache s = .trap e) : Fits s.cfg.xlen e.tval := by
  unfold fetchDecode at h
  split at h
  · cases h
    exact hpc
  · split at h
    · exact fits_decodeLine_tval h
    · split at h
      · rename_i he
        cases h
        exact fits_fetchWord_tval hpc he
      · exact fits_decodeLine_tval h

/-! ### The end of a step -/

theorem State.Legal.fillIcache (h : s.Legal) (i : Instr) (line : IcacheLine) (hit fill : Bool) :
    (fillIcache i line hit fill s).Legal := by
  unfold Machine.fillIcache
  split
  · exact ⟨{ h.maps with icache := keysSorted_mapInsert h.maps.icache }, { h.csrs with }, { h.widths with }⟩
  · exact h

/-- The retire leaves nothing pending. -/
theorem State.Legal.retire (h : s.Legal) (executed : Bool) : (retire executed s).Inv :=
  ⟨{ h.maps with }, { h.csrs with }, { h.widths with pc := h.widths.npc }, ⟨rfl, rfl, rfl, rfl⟩⟩

theorem State.Legal.runInstr (h : s.Legal) {inp : StepInput} (hr : runInstr inp s = .next t) : t.Inv := by
  unfold Machine.runInstr at hr
  split at hr
  · rename_i he
    cases hr
    exact (h.deliver (fits_fetchDecode_tval h.widths.pc he)).retire false
  · rename_i i line hit _
    obtain ⟨u, hu, heff⟩ := exec_effect i (atInstr line s)
    rw [hu] at hr
    cases hr
    exact ((heff.legal (h.npc (fits_norm _ _))).fillIcache _ _ _ _).retire true

/-- Settles O9: each part of a step keeps the invariant but for what is pending, and the retire clears that. -/
theorem stepKeepsInv : Obligations.StepKeepsInv := by
  intro s t hs h
  have h0 := hs.legal.beginStep (nextInput s)
  unfold step stepWith cycle at h
  dsimp only at h
  split at h
  · split at h
    · cases h
      exact (h0.deliverInterrupt _ _).retire false
    · exact (h0.duringStep _).runInstr h
  · cases h

/-! ### Reset -/

/-- Settles O10: every conjunct of the invariant on the values of rule R120. -/
theorem resetInv : Obligations.ResetInv := by
  intro cfg entry hentry
  have hfits := fits_zero cfg.xlen
  have hmstatus : MstatusLegal cfg.xlen (resetMstatus cfg.xlen) := by
    cases cfg.xlen <;> exact ⟨by decide, by decide, by decide, by decide⟩
  have hmisa : MisaLegal cfg.xlen (resetMisa cfg.xlen) := by
    cases cfg.xlen <;> exact ⟨by decide, by decide, by decide⟩
  have hsatp : SatpLegal cfg.xlen 0 := ⟨fun _ => by decide, fun _ => by decide, fun _ => by decide⟩
  have hzero : ∀ mask, Within mask 0 := fun mask => BitVec.zero_and
  refine ⟨⟨⟨.nil, by simp [State.resetOf]⟩, .nil, .nil⟩, ?_, ?_, ⟨rfl, rfl, rfl, rfl⟩⟩
  · exact ⟨hmstatus, hmisa, hzero _, hzero _, hzero _, hzero _, bit_zero 1, bit_zero 1, hzero _, hzero _, hsatp,
      fun k => by simp [State.resetOf], fun k => by simpa [State.resetOf] using hzero _⟩
  · exact ⟨fun k => by simpa [State.resetOf] using hfits, by simp [State.resetOf], hentry, hentry, hfits, hfits, hfits,
      hfits, hfits, hfits, hfits, hfits, hfits, hfits, hfits, hfits, hfits⟩

end Sys2Proof.Machine
end

section
/-!
The mode and what User mode can reach: what each effect of an instruction does to the mode, to the CSRs, to `mstatus` and
to the icache; and the values after reset.
-/

namespace Sys2Proof.Machine

variable {i : Instr} {s t : State}

/-! ### The mode -/

/-- A trap never lowers the mode: Machine mode delegates nothing (rule R871). -/
theorem level_le_deliver (e : Exn) (s : State) : s.priv.level ≤ (deliver e s).priv.level := by
  unfold deliver
  dsimp only
  split
  · rename_i h
    have hp : s.priv ≠ .machine := by
      intro hp
      simp [delegated, hp] at h
    show s.priv.level ≤ 1
    cases hs : s.priv
    · decide
    · decide
    · exact absurd hs hp
  · show s.priv.level ≤ 3
    cases s.priv <;> decide

/-- MRET runs in Machine mode, the highest (rule R555). -/
theorem returnM_level_le (s : State) : (returnM s).priv.level ≤ Priv.level .machine := by
  cases (returnM s).priv <;> decide

/-- SRET never enters Machine mode (rule R556). -/
theorem returnS_level_le (h : s.priv ≠ .user) : (returnS s).priv.level ≤ s.priv.level := by
  have h1 : (returnS s).priv.level ≤ 1 := by
    unfold returnS
    dsimp only
    split <;> decide
  have h2 : 1 ≤ s.priv.level := by
    cases hs : s.priv
    · exact absurd hs h
    · decide
    · decide
  exact h1.trans h2

/-- A CSR write reaches neither the mode nor the pending trap. -/
theorem csrWrite_keeps_mode (c : Csr) (v : Word) (s : State) :
    (csrWrite c v s).priv = s.priv ∧ (csrWrite c v s).trapPending = s.trapPending := by
  cases c
  case stimecmp | stimecmph =>
    rcases stimecmpCallback_cases _ with ⟨-, e⟩ | ⟨-, e⟩ <;> rw [csrWrite, e] <;> exact ⟨rfl, rfl⟩
  all_goals exact ⟨rfl, rfl⟩

/-- What an effect does to the mode: a trap sets `trapPending` and never lowers it; anything else leaves `trapPending`,
and the mode too unless it is a return, which never raises it. -/
theorem Effect.mode (he : Effect i s t) :
    (t.trapPending = true ∧ s.priv.level ≤ t.priv.level)
    ∨ (t.trapPending = s.trapPending
      ∧ (t.priv = s.priv ∨ ((i = .mret ∨ i = .sret) ∧ t.priv.level ≤ s.priv.level))) := by
  cases he with
  | plain hp => exact .inr ⟨hp.trapPending_eq, .inl hp.priv_eq⟩
  | trap e hp _ => exact .inl ⟨deliver_trapPending _ e, hp.priv_eq ▸ level_le_deliver e _⟩
  | halt => exact .inr ⟨rfl, .inl rfl⟩
  | fenceI | sfence => exact .inr ⟨rfl, .inl rfl⟩
  | mret hi hm => exact .inr ⟨rfl, .inr ⟨.inl hi, hm ▸ returnM_level_le s⟩⟩
  | sret hi hu => exact .inr ⟨rfl, .inr ⟨.inr hi, returnS_level_le hu⟩⟩
  | csr rd a c v _ _ _ =>
    obtain ⟨hp, ht⟩ := csrWrite_keeps_mode c v s
    exact .inr ⟨(writeX_trapPending _ _ _).trans ht, .inl ((writeX_priv _ _ _).trans hp)⟩

/-- Settles O14: `Effect.mode` of the instruction's effect. -/
theorem privilegeChangesOnlyByTrapsAndReturns : Obligations.PrivilegeChangesOnlyByTrapsAndReturns := by
  intro i s t hs h
  rcases (Effect.of_exec h).mode with ⟨htrap, hle⟩ | ⟨htrap, hmode⟩
  · exact ⟨fun _ => hle, fun hf => by simp [htrap] at hf⟩
  · exact ⟨fun hf => by simp [htrap, hs] at hf, fun _ => hmode⟩

/-! ### The CSRs that User mode can write -/

theorem csrNamed_row {xl : Xlen} {a : Nat} {c c' : Csr} (hrow : (a, false, c') ∈ csrRows) (h : some c' = some c) :
    csrNamed xl a c := by
  cases h
  exact .inl ⟨false, hrow, by simp⟩

theorem csrNamed_row32 {xl : Xlen} {a : Nat} {c c' : Csr} (hrow : (a, true, c') ∈ csrRows)
    (h : Csr.on32 xl c' = some c) : csrNamed xl a c := by
  cases xl
  · cases h
    exact .inl ⟨true, hrow, fun _ => rfl⟩
  · cases h

/-- The PMP rows of the address map (rules R66, R86). -/
theorem csrNamed_of_ofPmpAddr {xl : Xlen} {a : CsrAddr} {c : Csr} (h : Csr.ofPmpAddr xl a = some c) :
    csrNamed xl a.toNat c := by
  unfold Csr.ofPmpAddr at h
  split at h
  · rename_i hr
    obtain ⟨h1, h2⟩ : 0x3A0 ≤ a.toNat ∧ a.toNat ≤ 0x3AF := hr
    have ha : a.toNat = 0x3A0 + (a.setWidth 4).toNat := by rw [BitVec.toNat_setWidth]; omega
    refine .inr (.inl ⟨a.setWidth 4, ha, ?_⟩)
    split at h
    · cases xl
      · cases h
        exact ⟨rfl, fun hx => nomatch hx⟩
      · cases h
    · rename_i hodd
      cases h
      refine ⟨rfl, fun _ => ?_⟩
      have : a.toNat % 2 ≠ 1 := fun h => hodd (by
        rw [BitVec.getLsbD, Nat.testBit_zero, h]; rfl)
      omega
  · split at h
    · rename_i hr
      obtain ⟨h1, h2⟩ : 0x3B0 ≤ a.toNat ∧ a.toNat ≤ 0x3EF := hr
      cases h
      refine .inr (.inr ⟨_, ?_, rfl⟩)
      rw [BitVec.toNat_setWidth, BitVec.toNat_sub_of_le h1]
      simp
      omega
    · cases h

/-- An address that names a register names it by a row of the map or as a PMP register (rules R65 to R67, R86). -/
theorem csrNamed_of_ofAddr {xl : Xlen} {a : CsrAddr} {c : Csr} (h : Csr.ofAddr xl a = some c) : csrNamed xl a.toNat c := by
  unfold Csr.ofAddr at h
  split at h
  case h_45 => exact csrNamed_of_ofPmpAddr h
  case h_7 | h_8 | h_9 | h_20 | h_29 | h_30 | h_38 | h_39 => exact csrNamed_row32 (by decide) h
  all_goals exact csrNamed_row (by decide) h

/-- The only CSRs that User mode writes are the three of floating point (rules R63, R64). -/
theorem isFpCsr_of_user {xl : Xlen} {a : CsrAddr} {c : Csr} (hu : s.priv = .user) (hc : Csr.ofAddr xl a = some c)
    (ha : csrAllowed a c true s = true) : isFpCsr c = true := by
  simp only [csrAllowed, hu, Bool.and_eq_true, decide_eq_true_eq, Bool.true_and, Bool.not_eq_true'] at ha
  obtain ⟨⟨⟨hlevel, hwritable⟩, -⟩, -⟩ := ha
  have h0 : a.toNat / 256 % 4 = 0 := by
    simpa [csrMinLevel, Priv.level, BitVec.extractLsb'_toNat, Nat.shiftRight_eq_div_pow] using hlevel
  have h3 : a.toNat / 1024 ≠ 3 := by
    intro h
    have : a.extractLsb' 10 2 = 3#2 := by
      apply BitVec.eq_of_toNat_eq
      simp [BitVec.extractLsb'_toNat, Nat.shiftRight_eq_div_pow, h]
    simp [csrReadOnly, this] at hwritable
  rcases csrNamed_of_ofAddr hc with ⟨b, hrow, -⟩ | ⟨n, hn, -, -⟩ | ⟨n, hn, -⟩
  · have hrows : ∀ r ∈ csrRows, r.1 / 256 % 4 = 0 → r.1 / 1024 ≠ 3 → isFpCsr r.2.2 = true := by decide
    exact hrows _ hrow h0 h3
  · have := n.isLt
    omega
  · have := n.isLt
    omega

/-- A plain change leaves what every other CSR reads as. -/
theorem Plain.csrRead_eq (h : Plain s t) {c : Csr} (hc : c ∉ [Csr.fflags, .frm, .fcsr, .mstatus, .sstatus]) :
    csrRead c t = csrRead c s := by
  obtain ⟨x, f, npc, fcsr, mstatus, mem, resv, rfl⟩ := h.frame
  cases c
  case fflags | frm | fcsr | mstatus | sstatus => simp at hc
  all_goals rfl

/-- What an effect without a trap does in User mode: a plain change, a halt or FENCE.I. -/
theorem Effect.user_cases (he : Effect i s t) (hu : s.priv = .user) (ht : t.trapPending = false) :
    Plain s t ∨ t = haltHart s ∨ ((∃ imm rs1 rd, i = .fenceI imm rs1 rd) ∧ t = flushIcache s) := by
  cases he with
  | plain hp => exact .inl hp
  | trap e hp _ => simp at ht
  | halt => exact .inr (.inl rfl)
  | fenceI imm rs1 rd hi => exact .inr (.inr ⟨⟨imm, rs1, rd, hi⟩, rfl⟩)
  | sfence _ _ _ hne => exact absurd hu hne
  | mret _ hm => simp [hu] at hm
  | sret _ hne => exact absurd hu hne
  | csr rd a c v hc ha _ => exact .inl ((Plain.csrWrite_fp (isFpCsr_of_user hu hc ha) v s).x rd _)

/-- Settles O18: in User mode an effect without a trap is a plain change, a halt or FENCE.I. -/
theorem userModeIsConfined : Obligations.UserModeIsConfined := by
  intro i s t hu _ h ht
  rcases (Effect.of_exec h).user_cases hu ht with hp | rfl | ⟨⟨imm, rs1, rd, hi⟩, rfl⟩
  · exact ⟨hp.priv_eq.trans hu, fun c hc => hp.csrRead_eq hc, fun k hk h13 h14 hsd => hp.bit_mstatus hk h13 h14 hsd,
      fun _ => hp.icache_eq⟩
  · exact ⟨hu, fun c _ => by cases c <;> rfl, fun _ _ _ _ _ => rfl, fun _ => rfl⟩
  · exact ⟨hu, fun c _ => by cases c <;> rfl, fun _ _ _ _ _ => rfl, fun hne => absurd hi (hne imm rs1 rd)⟩

/-! ### The values after reset -/

theorem pmpcfgBytes_zero (first n : Nat) : pmpcfgBytes (Vector.replicate 64 0) first n = 0 := by
  have hbyte : ∀ k, (Vector.replicate 64 (0 : Byte)).getD k 0 = 0 := fun k => by
    by_cases h : k < 64 <;> simp [Vector.getD, h]
  induction n generalizing first with
  | zero => rfl
  | succ n ih =>
    rw [pmpcfgBytes, ih, hbyte]
    rfl

/-- Settles O11: the record of `State.resetOf`, read field by field. -/
theorem resetValues : Obligations.ResetValues := by
  intro cfg entry
  have hx : ∀ r, readX r (State.resetOf cfg entry) = 0 := fun r => by
    rw [readX]
    split
    · rfl
    · simpa [State.resetOf] using fits_zero cfg.xlen
  have hf : ∀ r, readF r (State.resetOf cfg entry) = 0 := fun r => by simp [readF, State.resetOf]
  have hlow : lowHalf cfg.xlen 0 = 0 := norm_zero _
  have hcsr : ∀ c, c ∉ [Csr.mstatus, .sstatus, .misa, .mhartid, .stimecmp, .stimecmph, .time, .timeh] →
      csrRead c (State.resetOf cfg entry) = 0 := by
    intro c hc
    cases c
    case mstatus | sstatus | misa | mhartid | stimecmp | stimecmph | time | timeh => simp at hc
    case pmpcfg n => exact pmpcfgBytes_zero _ _
    case pmpaddr n => simp [csrRead, State.resetOf]
    case cycle | instret | mcycle | minstret => exact hlow
    case sie | sip => exact BitVec.zero_and
    case frm | cycleh | instreth | mcycleh | minstreth => simp [csrRead, highHalf, State.resetOf]
    all_goals rfl
  refine ⟨hx, hf, rfl, rfl, rfl, rfl, rfl, rfl, rfl, ?_, ?_, rfl, rfl, fun _ c _ hc => hcsr c hc, fun k => ?_, rfl, rfl,
    rfl⟩
  · cases hxl : cfg.xlen <;> simp [State.resetOf, hxl, resetMstatus]
  · cases hxl : cfg.xlen <;> simp [State.resetOf, hxl, resetMisa]
  · simp [pmpRange, State.resetOf]

end Sys2Proof.Machine
end

section
/-!
Address translation (20_memory.md rules R230 to R240): what one level of the walk gives, check by check, and which bits
of the state and of the virtual address the walk reads.
-/

namespace Sys2Proof.Machine

variable {m : WalkMode} {acc : Access} {slot : Slot} {va va' pte : Word} {s t : State} {i base : Nat}

/-! ### Fields -/

theorem vpn_eq (m : WalkMode) (va : Word) (i : Nat) :
    vpn m va i = va.toNat / 2 ^ (12 + m.vpnBits * i) % 2 ^ m.vpnBits := by
  rw [vpn, Nat.shiftRight_eq_div_pow]

theorem ptePpn_eq (m : WalkMode) (pte : Word) : ptePpn m pte = pte.toNat / 2 ^ 10 % 2 ^ m.ppnBits := by
  rw [ptePpn, Nat.shiftRight_eq_div_pow]

theorem satpPpn_eq (xl : Xlen) (satp : Word) :
    satpPpn xl satp = satp.toNat % (match xl with | .rv32 => 2 ^ 22 | .rv64 => 2 ^ 44) := by
  cases xl <;> simp [satpPpn]

/-- The modes `satp` can select. -/
theorem satpMode_cases {xl : Xlen} {satp : Word} (h : satpMode xl satp = some m) :
    m = sv32 ∨ m = sv39 ∨ m = sv48 ∨ m = sv57 := by
  cases xl
  case rv32 =>
    dsimp only [satpMode] at h
    split_ifs at h
    cases h
    exact .inl rfl
  case rv64 =>
    dsimp only [satpMode] at h
    split_ifs at h <;> cases h
    · exact .inr (.inl rfl)
    · exact .inr (.inr (.inl rfl))
    · exact .inr (.inr (.inr rfl))

/-- A leaf's address keeps the low bits of the virtual one (rule R238). -/
theorem compose_eq (m : WalkMode) (ppn : Nat) (va : Word) (i : Nat) :
    compose m ppn va i = (ppn - ppn % 2 ^ (m.vpnBits * i)) * 4096 + va.toNat % 2 ^ (12 + m.vpnBits * i) := by
  have hlow : va.toNat % 2 ^ (12 + m.vpnBits * i) =
      va.toNat % 4096 + 4096 * (va.toNat / 4096 % 2 ^ (m.vpnBits * i)) := by
    rw [pow_add]
    exact Nat.mod_mul
  rw [compose, hlow, Nat.shiftRight_eq_div_pow, show (2 : Nat) ^ 12 = 4096 from rfl]
  omega

/-- The user check of rule R236: User mode needs the U bit, Supervisor mode needs SUM where it is set. -/
theorem uOk_iff (pte : Word) (s : State) : uOk pte s = true ↔
    (s.priv = .user ∧ bit pte 4 = true) ∨ (s.priv = .supervisor ∧ bit pte 4 = false)
      ∨ (s.priv = .supervisor ∧ bit pte 4 = true ∧ bit s.mstatus 18 = true) := by
  cases hp : s.priv
  · simp [uOk, hp]
  · cases hb : bit pte 4 <;> simp [uOk, hp, hb]
  · simp [uOk, hp]

theorem permOk_eq (pte : Word) (acc : Access) :
    permOk pte acc = bit pte (match acc with | .fetch => 3 | .load => 1 | .store => 2) := by
  cases acc <;> rfl

/-! ### One level of the walk, in the order of its checks (rule R235) -/

/-- An entry that rule R234 refuses: invalid, or writable and not readable. -/
def PteReserved (pte : Word) : Prop := bit pte 0 = false ∨ (bit pte 1 = false ∧ bit pte 2 = true)

/-- An entry that maps a page. -/
def PteLeaf (pte : Word) : Prop := bit pte 1 = true ∨ bit pte 3 = true

theorem reserved_eq_true_iff (pte : Word) : (!bit pte 0 || (!bit pte 1 && bit pte 2)) = true ↔ PteReserved pte := by
  simp [PteReserved]

theorem pointer_eq_true_iff (pte : Word) : (!bit pte 1 && !bit pte 3) = true ↔ ¬PteLeaf pte := by
  simp [PteLeaf]

theorem walkFrom_unanswered (h : physRead slot (some i) (base + vpn m va i * m.pteSize) m.pteSize s = none) :
    walkFrom m acc slot va s i base = .error .accessFault := by
  rw [walkFrom, h]

section Entry

variable (hread : physRead slot (some i) (base + vpn m va i * m.pteSize) m.pteSize s = some pte)
include hread

theorem walkFrom_reserved (hr : PteReserved pte) : walkFrom m acc slot va s i base = .error .pageFault := by
  rw [walkFrom, hread]
  exact if_pos ((reserved_eq_true_iff pte).mpr hr)

/-- A pointer has nowhere to lead from the last level, and otherwise leads to the next table. -/
theorem walkFrom_pointer (hr : ¬PteReserved pte) (hl : ¬PteLeaf pte) :
    (i = 0 → walkFrom m acc slot va s i base = .error .pageFault)
    ∧ ∀ j, i = j + 1 → walkFrom m acc slot va s i base = walkFrom m acc slot va s j (ptePpn m pte * 4096) := by
  have hr' := mt (reserved_eq_true_iff pte).mp hr
  have hl' := (pointer_eq_true_iff pte).mpr hl
  refine ⟨?_, ?_⟩
  · rintro rfl
    rw [walkFrom, hread]
    exact (if_neg hr').trans (if_pos hl')
  · rintro j rfl
    rw [walkFrom, hread]
    exact (if_neg hr').trans (if_pos hl')

/-- The checks of a leaf: a misaligned superpage, the user check, the permission. -/
theorem walkFrom_leaf (hr : ¬PteReserved pte) (hl : PteLeaf pte) :
    walkFrom m acc slot va s i base =
      if ptePpn m pte % 2 ^ (m.vpnBits * i) ≠ 0 then .error .pageFault
      else if !uOk pte s then .error .pageFault
      else if !permOk pte acc then .error .accessFault
      else .ok (compose m (ptePpn m pte) va i) := by
  rw [walkFrom, hread]
  exact (if_neg (mt (reserved_eq_true_iff pte).mp hr)).trans (if_neg fun h => (pointer_eq_true_iff pte).mp h hl)

end Entry

/-- Settles O59: the rule of each check, with the fields written as numbers. -/
theorem walkLevels : Obligations.WalkLevels := by
  intro m acc slot va pte s i base
  simp only [← vpn_eq, ← ptePpn_eq, ← uOk_iff]
  have hperm := permOk_eq pte acc
  refine ⟨walkFrom_unanswered, walkFrom_reserved, fun he hr hl => (walkFrom_pointer he hr hl).1,
    fun he hr hl => (walkFrom_pointer he hr hl).2, fun he hr hl hm => ?_, fun he hr hl hm hu => ?_,
    fun he hr hl hm hu hp => ?_, fun he hr hl hm hu hp => ?_⟩
  · simp [walkFrom_leaf he hr hl, hm]
  · simp [walkFrom_leaf he hr hl, hm, hu]
  · have hp' : permOk pte acc = false := hperm.trans (Bool.eq_false_iff.mpr hp)
    simp [walkFrom_leaf he hr hl, hm, hu, hp']
  · have hp' : permOk pte acc = true := hperm.trans hp
    simp [walkFrom_leaf he hr hl, hm, hu, hp', compose_eq]

/-! ### What the walk depends on -/

/-- The walk reads the state through the bus and the user check alone. -/
theorem walkFrom_congr_state (hr : ∀ level pa n, physRead slot level pa n t = physRead slot level pa n s)
    (hu : ∀ pte, uOk pte t = uOk pte s) (m : WalkMode) (acc : Access) (va : Word) (i base : Nat) :
    walkFrom m acc slot va t i base = walkFrom m acc slot va s i base := by
  induction i generalizing base with
  | zero => rw [walkFrom, walkFrom]; simp only [hr, hu]
  | succ i ih => rw [walkFrom, walkFrom]; simp only [hr, hu, ih]

theorem vpn_congr (h : va.toNat % 2 ^ (12 + m.vpnBits * (i + 1)) = va'.toNat % 2 ^ (12 + m.vpnBits * (i + 1))) :
    vpn m va i = vpn m va' i := by
  have hsplit : ∀ w : Word, vpn m w i = w.toNat % 2 ^ (12 + m.vpnBits * (i + 1)) / 2 ^ (12 + m.vpnBits * i) := by
    intro w
    rw [vpn_eq, Nat.mul_succ, ← Nat.add_assoc, pow_add _ (12 + _), Nat.mod_mul_right_div_self]
  rw [hsplit, hsplit, h]

/-- From level `i` down the walk reads the low `12 + VPNBITS * (i + 1)` bits of the virtual address. -/
theorem walkFrom_congr_va (m : WalkMode) (acc : Access) (slot : Slot) (s : State) (i base : Nat)
    (h : va.toNat % 2 ^ (12 + m.vpnBits * (i + 1)) = va'.toNat % 2 ^ (12 + m.vpnBits * (i + 1))) :
    walkFrom m acc slot va s i base = walkFrom m acc slot va' s i base := by
  induction i generalizing base with
  | zero =>
    have hlow : va.toNat % 2 ^ (12 + m.vpnBits * 0) = va'.toNat % 2 ^ (12 + m.vpnBits * 0) :=
      Nat.ModEq.of_dvd (pow_dvd_pow 2 (by omega)) h
    rw [walkFrom, walkFrom]
    simp only [vpn_congr h, compose_eq, hlow]
  | succ i ih =>
    have hlow : va.toNat % 2 ^ (12 + m.vpnBits * (i + 1)) = va'.toNat % 2 ^ (12 + m.vpnBits * (i + 1)) :=
      Nat.ModEq.of_dvd (pow_dvd_pow 2 (by rw [Nat.mul_succ _ (i + 1)]; omega)) h
    rw [walkFrom, walkFrom]
    simp only [vpn_congr h, compose_eq, hlow, ih _ hlow]

/-! ### `mstatus` -/

theorem uOk_mstatus {w : Word} (h : bit w 18 = bit s.mstatus 18) (pte : Word) :
    uOk pte { s with mstatus := w } = uOk pte s := by
  rw [Bool.eq_iff_iff, uOk_iff, uOk_iff, ← h]

theorem seenBytes_mstatus (level : Option Nat) (w : Word) (a n : Nat) :
    seenBytes slot level { s with mstatus := w } a n = seenBytes slot level s a n := by
  induction n generalizing a with
  | zero => rfl
  | succ n ih => rw [seenBytes, ih]; rfl

theorem physRead_mstatus (level : Option Nat) (pa n : Nat) (w : Word) :
    physRead slot level pa n { s with mstatus := w } = physRead slot level pa n s := by
  simp only [physRead, seenBytes_mstatus]

/-- Of `mstatus` translation reads SUM alone (rule R231). -/
theorem translate_mstatus {w : Word} (h : bit w 18 = bit s.mstatus 18) :
    translate acc slot va { s with mstatus := w } = translate acc slot va s := by
  have hwalk := walkFrom_congr_state (slot := slot) (s := s) (fun level pa n => physRead_mstatus level pa n w)
    (uOk_mstatus h)
  simp only [translate, walk, hwalk]

theorem pmpScan_mstatus (acc : Access) (pa n : Nat) (w : Word) (s : State) (l : List (Fin 64)) :
    pmpScan acc pa n { s with mstatus := w } l = pmpScan acc pa n s l := by
  induction l with
  | nil => rfl
  | cons k l ih => rw [pmpScan, pmpScan, ih]; rfl

/-- Settles O57: Machine mode returns before any check; outside it `translate_mstatus` and `pmpScan_mstatus`. -/
theorem effectivePrivilege : Obligations.EffectivePrivilege := by
  intro acc slot va w pa n s
  refine ⟨fun hp => ⟨by rw [translate, if_pos hp], by simp [pmpOk, hp]⟩, fun h => ⟨translate_mstatus h, ?_⟩, ?_⟩
  · rw [pmpOk, pmpOk, pmpScan_mstatus]
  · rw [returnS, bit_setBit _ _ _ _ (by decide), if_pos rfl]

/-! ### The modes of `satp` -/

/-- Rule R240's check: the bits above an Sv39 address repeat its bit 38. -/
theorem canonical_sv39_iff (va : Word) : canonical sv39 va = true ↔ ∀ k, 39 ≤ k → k < 64 → bit va k = bit va 38 := by
  have hsign : ∀ k, k < 64 →
      bit ((va.extractLsb' 0 39).signExtend 64) k = if k < 39 then bit va k else bit va 38 := by
    intro k hk
    rw [bit, BitVec.getLsbD_signExtend, BitVec.msb_eq_getLsbD_last]
    by_cases h : k < 39 <;> simp [hk, h, bit]
  have hcanon : canonical sv39 va = true ↔ (va.extractLsb' 0 39).signExtend 64 = va := by simp [canonical]
  rw [hcanon]
  constructor
  · intro h k h39 h64
    rw [← congrArg (bit · k) h, hsign k h64, if_neg (by omega)]
  · intro h
    refine word_ext fun k hk => (hsign k hk).trans ?_
    split
    · rfl
    · exact (h k (by omega) hk).symm

theorem canonical_of_ne (h : m ≠ sv39) (va : Word) : canonical m va = true := by simp [canonical, h]

/-- Outside Machine mode a mode of `satp` translates by its walk. -/
theorem translate_walk (hp : s.priv ≠ .machine) (hm : satpMode s.cfg.xlen s.satp = some m) :
    translate acc slot va s = walk m acc slot va s := by
  rw [translate, if_neg hp, hm]

theorem walk_canonical (h : canonical m va = true) : walk m acc slot va s =
    walkFrom m acc slot va s (m.levels - 1) (satpPpn s.cfg.xlen s.satp * 4096) := if_pos h

/-- A mode without the check of rule R240 reads the bits of its page numbers and its offset alone. -/
theorem walk_congr_va (hm : m ≠ sv39)
    (h : va.extractLsb' 0 (12 + m.vpnBits * (m.levels - 1 + 1))
      = va'.extractLsb' 0 (12 + m.vpnBits * (m.levels - 1 + 1))) :
    walk m acc slot va s = walk m acc slot va' s := by
  have hn := congrArg BitVec.toNat h
  simp only [BitVec.extractLsb'_toNat, Nat.shiftRight_zero] at hn
  rw [walk_canonical (canonical_of_ne hm va), walk_canonical (canonical_of_ne hm va'), walkFrom_congr_va _ _ _ _ _ _ hn]

/-- Settles O58: the selection by definition; below Machine mode the walk, and what of the address it reads. -/
theorem translationModes : Obligations.TranslationModes := by
  refine ⟨fun satp => ⟨rfl, rfl⟩, fun acc slot va va' s hp => ⟨fun hm => ?_, fun hm ⟨k, h39, h64, hk⟩ => ?_,
    fun hm h => ?_, fun hm h => ?_, fun m hm h => ?_⟩⟩
  · rw [translate, if_neg hp, hm]
  · rw [translate_walk hp hm, walk, if_neg]
    exact fun hc => hk ((canonical_sv39_iff va).mp hc k h39 h64)
  · rw [translate_walk hp hm, translate_walk hp hm, walk_congr_va (m := sv48) (by decide) h]
  · rw [translate_walk hp hm, translate_walk hp hm, walk_congr_va (m := sv57) (by decide) h]
  · have hc : canonical m va = true := by
      rcases satpMode_cases hm with rfl | rfl | rfl | rfl
      · exact canonical_of_ne (m := sv32) (by decide) va
      · exact (canonical_sv39_iff va).mpr (h rfl)
      · exact canonical_of_ne (m := sv48) (by decide) va
      · exact canonical_of_ne (m := sv57) (by decide) va
    rw [translate_walk hp hm, walk_canonical hc]
    exact congrArg (fun ppn => walkFrom m acc slot va s (m.levels - 1) (ppn * 4096)) (satpPpn_eq s.cfg.xlen s.satp)

end Sys2Proof.Machine
end

section
/-!
The PMP check (20_memory.md rule R241, 10_state.md rule R110): the first overlapping range decides, and the range that
each matching mode gives.
-/

namespace Sys2Proof.Machine

variable {acc : Access} {pa n : Nat} {s : State}

/-! ### The scan -/

/-- The range of an entry is nonempty and overlaps the access. -/
def PmpOverlaps (pa n : Nat) (s : State) (k : Fin 64) : Prop :=
  ∃ a b, pmpRange s k = some (a, b) ∧ a < b ∧ pa < b ∧ a < pa + n

/-- The range of an entry contains the access, and the entry has the permission. -/
def PmpGrants (acc : Access) (pa n : Nat) (s : State) (k : Fin 64) : Prop :=
  ∃ a b, pmpRange s k = some (a, b) ∧ a ≤ pa ∧ pa + n ≤ b ∧ pmpPerm s.pmpcfg[k] acc = true

theorem PmpGrants.overlaps (hn : 0 < n) {k : Fin 64} (h : PmpGrants acc pa n s k) : PmpOverlaps pa n s k := by
  obtain ⟨a, b, hr, ha, hb, -⟩ := h
  exact ⟨a, b, hr, by omega, by omega, by omega⟩

/-- An overlapping entry decides the scan. -/
theorem pmpScan_cons_overlaps {k : Fin 64} (l : List (Fin 64)) (h : PmpOverlaps pa n s k) :
    pmpScan acc pa n s (k :: l) = true ↔ PmpGrants acc pa n s k := by
  obtain ⟨a, b, hr, hab⟩ := h
  simp [pmpScan, PmpGrants, hr, hab, and_assoc]

/-- An entry that does not overlap leaves the scan to the rest. -/
theorem pmpScan_cons_disjoint {k : Fin 64} (l : List (Fin 64)) (h : ¬PmpOverlaps pa n s k) :
    pmpScan acc pa n s (k :: l) = pmpScan acc pa n s l := by
  rw [pmpScan]
  split
  · rfl
  · rename_i a b hr
    exact if_neg fun hab => h ⟨a, b, hr, hab⟩

/-- The scan of a rising list of entries: the first that overlaps grants. -/
theorem pmpScan_iff (hn : 0 < n) {l : List (Fin 64)} (hl : l.Pairwise (· < ·)) :
    pmpScan acc pa n s l = true ↔
      ∃ k ∈ l, PmpGrants acc pa n s k ∧ ∀ j ∈ l, j < k → ¬PmpOverlaps pa n s j := by
  induction l with
  | nil => simp [pmpScan]
  | cons i l ih =>
    obtain ⟨hi, hl⟩ := List.pairwise_cons.mp hl
    by_cases ho : PmpOverlaps pa n s i
    · rw [pmpScan_cons_overlaps l ho]
      constructor
      · intro hg
        refine ⟨i, List.mem_cons_self, hg, fun j hj hlt => ?_⟩
        rcases List.mem_cons.mp hj with rfl | hj
        · omega
        · have := hi j hj; omega
      · rintro ⟨k, hk, hg, hfirst⟩
        rcases List.mem_cons.mp hk with rfl | hk
        · exact hg
        · exact absurd ho (hfirst i List.mem_cons_self (hi k hk))
    · rw [pmpScan_cons_disjoint l ho, ih hl]
      constructor
      · rintro ⟨k, hk, hg, hfirst⟩
        refine ⟨k, List.mem_cons_of_mem i hk, hg, List.forall_mem_cons.mpr ⟨fun _ => ho, hfirst⟩⟩
      · rintro ⟨k, hk, hg, hfirst⟩
        rcases List.mem_cons.mp hk with rfl | hk
        · exact absurd (hg.overlaps hn) ho
        · exact ⟨k, hk, hg, fun j hj => hfirst j (List.mem_cons_of_mem i hj)⟩

theorem pmpOk_iff (hn : 0 < n) (hp : s.priv ≠ .machine) :
    pmpOk acc pa n s = true ↔ ∃ k, PmpGrants acc pa n s k ∧ ∀ j, j < k → ¬PmpOverlaps pa n s j := by
  have hscan : pmpOk acc pa n s = pmpScan acc pa n s (List.finRange 64) := by simp [pmpOk, hp]
  simp [hscan, pmpScan_iff hn (List.pairwise_lt_finRange 64)]

/-! ### The naturally aligned ranges -/

/-- The address of an aligned block ends in a 0 above its ones. -/
theorem trailingOnes_block {w g : Nat} (h : g < w) (q : Nat) :
    trailingOnes w (q * 2 ^ (g + 1) + (2 ^ g - 1)) = g := by
  induction g generalizing w with
  | zero =>
    obtain _ | w := w
    · omega
    · rw [trailingOnes, if_neg (by omega)]
  | succ g ih =>
    obtain _ | w := w
    · omega
    have hpos : 0 < 2 ^ g := by positivity
    have hhalf : (q * 2 ^ (g + 1 + 1) + (2 ^ (g + 1) - 1)) / 2 = q * 2 ^ (g + 1) + (2 ^ g - 1) := by
      rw [pow_succ 2 (g + 1), pow_succ 2 g, ← Nat.mul_assoc]; omega
    have hodd : (q * 2 ^ (g + 1 + 1) + (2 ^ (g + 1) - 1)) % 2 = 1 := by
      rw [pow_succ 2 (g + 1), pow_succ 2 g, ← Nat.mul_assoc]; omega
    rw [trailingOnes, if_pos hodd, hhalf, ih (by omega)]

theorem trailingOnes_ones (w : Nat) : trailingOnes w (2 ^ w - 1) = w := by
  induction w with
  | zero => rfl
  | succ w ih =>
    have hpos : 0 < 2 ^ w := by positivity
    have hhalf : (2 ^ (w + 1) - 1) / 2 = 2 ^ w - 1 := by omega
    rw [trailingOnes, if_pos (by omega), hhalf, ih]

/-! ### The range of an entry, by its matching mode (rule R110) -/

section Range

variable {k : Fin 64}

theorem pmpRange_off (h : s.pmpcfg[k].extractLsb' 3 2 = 0) : pmpRange s k = none := by
  rw [pmpRange, h]; rfl

theorem pmpRange_tor_first (h : s.pmpcfg[(0 : Fin 64)].extractLsb' 3 2 = 1) :
    pmpRange s 0 = some (0, 4 * s.pmpaddr[(0 : Fin 64)].toNat) := by
  rw [pmpRange, h]; simp [Nat.mul_comm]

theorem pmpRange_tor (h : s.pmpcfg[k].extractLsb' 3 2 = 1) {j : Fin 64} (hj : j.val + 1 = k.val) :
    pmpRange s k = if 4 * s.pmpaddr[j].toNat ≤ 4 * s.pmpaddr[k].toNat
      then some (4 * s.pmpaddr[j].toNat, 4 * s.pmpaddr[k].toNat) else none := by
  rw [pmpRange, h]; simp [Nat.mul_comm, ← hj]

theorem pmpRange_na4 (h : s.pmpcfg[k].extractLsb' 3 2 = 2) :
    pmpRange s k = some (4 * s.pmpaddr[k].toNat, 4 * s.pmpaddr[k].toNat + 4) := by
  rw [pmpRange, h]; simp [Nat.mul_comm]

theorem pmpRange_napot (h : s.pmpcfg[k].extractLsb' 3 2 = 3) : pmpRange s k =
    if trailingOnes (pmpWidth s.cfg.xlen) s.pmpaddr[k].toNat = pmpWidth s.cfg.xlen then some (0, 2 ^ palen s.cfg.xlen)
    else
      let t := trailingOnes (pmpWidth s.cfg.xlen) s.pmpaddr[k].toNat
      let start := (s.pmpaddr[k].toNat - s.pmpaddr[k].toNat % 2 ^ (t + 1)) * 4
      some (start, start + 2 ^ (t + 3)) := by
  rw [pmpRange, h]; rfl

theorem pmpRange_block (h : s.pmpcfg[k].extractLsb' 3 2 = 3) {base g : Nat} (hb : base % 2 ^ (g + 3) = 0)
    (hg : g < pmpWidth s.cfg.xlen) (ha : s.pmpaddr[k].toNat = base / 4 + (2 ^ g - 1)) :
    pmpRange s k = some (base, base + 2 ^ (g + 3)) := by
  obtain ⟨q, rfl⟩ := Nat.dvd_of_mod_eq_zero hb
  have hpos : 0 < 2 ^ g := by positivity
  have hq : 2 ^ (g + 3) * q / 4 = q * 2 ^ (g + 1) := by
    rw [show (2 : Nat) ^ (g + 3) * q = 4 * (q * 2 ^ (g + 1)) by ring, Nat.mul_div_cancel_left _ (by decide)]
  have hlow : (q * 2 ^ (g + 1) + (2 ^ g - 1)) % 2 ^ (g + 1) = 2 ^ g - 1 := by
    rw [Nat.mul_add_mod', Nat.mod_eq_of_lt (by omega)]
  rw [hq] at ha
  rw [pmpRange_napot h, ha, trailingOnes_block hg, if_neg hg.ne]
  dsimp only
  rw [hlow, Nat.add_sub_cancel, show q * 2 ^ (g + 1) * 4 = 2 ^ (g + 3) * q by ring]

theorem pmpRange_all (h : s.pmpcfg[k].extractLsb' 3 2 = 3)
    (ha : s.pmpaddr[k].toNat = 2 ^ pmpWidth s.cfg.xlen - 1) : pmpRange s k = some (0, 2 ^ palen s.cfg.xlen) := by
  rw [pmpRange_napot h, ha, trailingOnes_ones, if_pos rfl]

end Range

/-- Settles O60: the scan's first overlapping entry, and the range of each matching mode. -/
theorem pmpFirstMatchDecides : Obligations.PmpFirstMatchDecides := by
  intro acc pa n s hn hp
  refine ⟨?_, fun k base g h hb hg ha => pmpRange_block h hb hg ha,
    fun k => ⟨pmpRange_off, ?_, fun h j => pmpRange_tor h, pmpRange_na4, fun h ha => ?_⟩⟩
  · rw [pmpOk_iff hn hp]
    constructor
    · rintro ⟨k, ⟨a, b, hr, ha, hb, hc⟩, hf⟩
      exact ⟨k, a, b, hr, ha, hb, by cases acc <;> exact hc, hf⟩
    · rintro ⟨k, a, b, hr, ha, hb, hc, hf⟩
      exact ⟨k, ⟨a, b, hr, ha, hb, by cases acc <;> exact hc⟩, hf⟩
  · rintro h rfl
    exact pmpRange_tor_first h
  · have hw : s.pmpaddr[k].toNat = 2 ^ pmpWidth s.cfg.xlen - 1 := by
      rw [ha]; cases s.cfg.xlen <;> rfl
    rw [pmpRange_all h hw]
    cases s.cfg.xlen <;> rfl

end Sys2Proof.Machine
end

section
/-!
The icache and the fences (20_memory.md rules R261, R262): which effect of an instruction empties the icache.
-/

namespace Sys2Proof.Machine

variable {i : Instr} {s t : State}

/-- A CSR write reaches neither memory nor the icache. -/
theorem csrWrite_keeps_memory (c : Csr) (v : Word) (s : State) :
    (csrWrite c v s).mem = s.mem ∧ (csrWrite c v s).icache = s.icache := by
  cases c
  case stimecmp | stimecmph =>
    rcases stimecmpCallback_cases _ with ⟨-, e⟩ | ⟨-, e⟩ <;> rw [csrWrite, e] <;> exact ⟨rfl, rfl⟩
  all_goals exact ⟨rfl, rfl⟩

/-- The fences that empty the icache: FENCE.I, and SFENCE.VMA where it is permitted (44_system.md rules R551, R559). -/
def FlushesIcache (i : Instr) (s : State) : Prop :=
  (∃ imm rs1 rd, i = .fenceI imm rs1 rd) ∨ (s.priv ≠ .user ∧ ∃ rs1 rs2, i = .sfenceVma rs1 rs2)

theorem FlushesIcache.exec_eq (h : FlushesIcache i s) : exec i s = .next (flushIcache s) := by
  rcases h with ⟨imm, rs1, rd, rfl⟩ | ⟨hu, rs1, rs2, rfl⟩
  · rfl
  · exact congrArg Host.Outcome.next (if_neg hu)

theorem Effect.icache_eq (he : Effect i s t) (hi : ¬FlushesIcache i s) : t.icache = s.icache := by
  cases he with
  | plain hp => exact hp.icache_eq
  | trap e hp _ => exact (deliver_icache _ e).trans hp.icache_eq
  | halt | mret | sret => rfl
  | fenceI imm rs1 rd h => exact absurd (.inl ⟨imm, rs1, rd, h⟩) hi
  | sfence rs1 rs2 h hu => exact absurd (.inr ⟨hu, rs1, rs2, h⟩) hi
  | csr rd a c v _ _ _ => exact (writeX_icache _ _ _).trans (csrWrite_keeps_memory c v s).2

/-- Settles O13: the fences by their meaning, everything else by its effect. -/
theorem icacheChangesOnlyByFences : Obligations.IcacheChangesOnlyByFences := by
  intro i s t h
  refine ⟨fun hf => ?_, (Effect.of_exec h).icache_eq⟩
  cases (FlushesIcache.exec_eq hf).symm.trans h
  rfl

end Sys2Proof.Machine
end

section
/-!
The data access of an instruction (20_memory.md rules R212 to R218, R243): which shared operation makes it, what a
failed check raises, and what it can do to memory.
-/

namespace Sys2Proof.Machine

variable {i : Instr} {s t : State} {ea : Word} {n pa : Nat} {e : Exn}

/-! ### A failed check, by shared operation -/

theorem memRead_of_dataAddr_error (h : dataAddr .load ea n s = .error e) : memRead ea n s = .error e := by
  rw [memRead, h]

theorem loadX_error (h : memRead ea n s = .error e) (rd : Reg) (ext : Ext) : loadX rd ea n ext s = deliver e s := by
  rw [loadX, h]

theorem loadF_error (hfs : mstatusFS s ≠ 0) {fmt : Fmt}
    (h : memRead ea (match fmt with | .s => 4 | .d => 8) s = .error e) (bits : Word) (rd : FReg) : loadF bits fmt rd ea s = deliver e s := by
  refine (if_neg hfs).trans ?_
  cases fmt <;> simp only [h]

theorem loadReserved_error {rs1 : Reg} (h : memRead (readX rs1 s) n s = .error e) (rd : Reg) :
    loadReserved n rd rs1 s = deliver e s := by
  unfold memRead at h
  unfold loadReserved
  dsimp only
  split at h
  · cases h; rfl
  · split at h
    · cases h; rfl
    · cases h

theorem storeBytes_error (h : dataAddr .store ea n s = .error e) (v : Word) : storeBytes ea n v s = deliver e s := by
  rw [storeBytes, memWrite, h]

theorem storeConditional_error {rs1 : Reg} (h : dataAddr .store (readX rs1 s) n s = .error e) (rd rs2 : Reg) :
    storeConditional n rd rs1 rs2 s = deliver e s := by
  rw [storeConditional, h]

theorem amo_error {rs1 : Reg} (h : dataAddr .store (readX rs1 s) n s = .error e) (kind : AtomicKind) (rd rs2 : Reg) :
    amo kind n rd rs1 rs2 s = deliver e s := by
  rw [amo, h]

theorem amo_no_region {rs1 : Reg} (hp : Passes .store (readX rs1 s) n pa s) (hr : regionOf s.cfg.bus pa n = none)
    (kind : AtomicKind) (rd rs2 : Reg) :
    amo kind n rd rs1 rs2 s = deliver ⟨.storeAccessFault, readX rs1 s⟩ s := by
  simp [amo, hp.dataAddr, physAtomic, hr]

/-! ### The operation of an instruction's access -/

/-- A load, a floating-point load with FS not Off or an LR raises what its read of memory raises. -/
theorem exec_of_memRead_error (h : loadAccess i s = some (ea, n)) (hfs : isFp i = true → mstatusFS s ≠ 0)
    (he : memRead ea n s = .error e) : exec i s = .next (deliver e s) := by
  cases i
  case lb | lh | lw | lbu | lhu | lwu | ld | cLwsp | cLdsp =>
    cases h
    exact congrArg _ (loadX_error he _ _)
  case cLw | cLd =>
    cases h
    rw [← wide_eq] at he
    exact congrArg _ (loadX_error he _ _)
  case flw | cFlwsp =>
    cases h
    exact congrArg _ (loadF_error (fmt := .s) (hfs rfl) he _ _)
  case fld | cFldsp =>
    cases h
    exact congrArg _ (loadF_error (fmt := .d) (hfs rfl) he _ _)
  case cFlw =>
    cases h
    rw [← wide_eq] at he
    exact congrArg _ (loadF_error (fmt := .s) (hfs rfl) he _ _)
  case cFld =>
    cases h
    rw [← wide_eq] at he
    exact congrArg _ (loadF_error (fmt := .d) (hfs rfl) he _ _)
  case lrW | lrD =>
    cases h
    exact congrArg _ (loadReserved_error he _)
  all_goals cases h

/-- A floating-point store raises with FS Off and is otherwise the store of the raw register. -/
theorem exec_of_storeF {bits : Word} {fmt : Fmt} {rs2 : FReg} (hi : isFp i = true) :
    exec i s = .next (storeF bits fmt rs2 ea s) →
      (isFp i = true ∧ mstatusFS s = 0 ∧ ∃ e, exec i s = .next (deliver e s))
      ∨ ∃ v, exec i s = .next (storeBytes ea (match fmt with | .s => 4 | .d => 8) v s) := by
  intro hx
  rcases storeF_cases bits fmt rs2 ea s with ⟨hfs, hst⟩ | ⟨-, hst⟩ <;> rw [hst] at hx
  · exact .inl ⟨hi, hfs, _, hx⟩
  · exact .inr ⟨_, hx⟩

/-- A store is `storeBytes`, but that a floating-point store with FS Off raises. -/
theorem exec_of_storeAccess (h : storeAccess i s = some (ea, n)) :
    (isFp i = true ∧ mstatusFS s = 0 ∧ ∃ e, exec i s = .next (deliver e s))
    ∨ ∃ v, exec i s = .next (storeBytes ea n v s) := by
  cases i
  case sb | sh | sw | sd | cSwsp | cSdsp =>
    cases h
    exact .inr ⟨_, rfl⟩
  case cSw | cSd =>
    cases h
    rw [← wide_eq]
    exact .inr ⟨_, rfl⟩
  case fsw | cFswsp =>
    cases h
    exact exec_of_storeF (fmt := .s) rfl rfl
  case fsd | cFsdsp =>
    cases h
    exact exec_of_storeF (fmt := .d) rfl rfl
  case cFsw =>
    cases h
    rw [← wide_eq]
    exact exec_of_storeF (fmt := .s) rfl rfl
  case cFsd =>
    cases h
    rw [← wide_eq]
    exact exec_of_storeF (fmt := .d) rfl rfl
  all_goals cases h

/-- An SC is `storeConditional`, an AMO is `amo`, at the address in `x[rs1]`. -/
theorem exec_of_atomicAccess (h : atomicAccess i s = some (ea, n)) : ∃ rd rs1 rs2, ea = readX rs1 s
    ∧ ((isReservation i = true ∧ exec i s = .next (storeConditional n rd rs1 rs2 s))
      ∨ ∃ kind, exec i s = .next (amo kind n rd rs1 rs2 s)) := by
  cases i
  case scW | scD =>
    cases h
    exact ⟨_, _, _, rfl, .inl ⟨rfl, rfl⟩⟩
  case amoswapW | amoaddW | amoxorW | amoandW | amoorW | amominW | amomaxW | amominuW | amomaxuW | amoswapD | amoaddD
      | amoxorD | amoandD | amoorD | amominD | amomaxD | amominuD | amomaxuD =>
    cases h
    exact ⟨_, _, _, rfl, .inr ⟨_, rfl⟩⟩
  all_goals cases h

/-- A store with FS not Off where that matters, an SC or an AMO raises what its address raises. -/
theorem exec_of_dataAddr_error (h : storeAccess i s = some (ea, n) ∨ atomicAccess i s = some (ea, n))
    (hfs : isFp i = true → mstatusFS s ≠ 0) (he : dataAddr .store ea n s = .error e) :
    exec i s = .next (deliver e s) := by
  rcases h with h | h
  · rcases exec_of_storeAccess h with ⟨hfp, hoff, -⟩ | ⟨v, hx⟩
    · exact absurd hoff (hfs hfp)
    · rw [hx, storeBytes_error he]
  · obtain ⟨rd, rs1, rs2, rfl, ⟨-, hx⟩ | ⟨kind, hx⟩⟩ := exec_of_atomicAccess h
    · rw [hx, storeConditional_error he]
    · rw [hx, amo_error he]

/-- A store or an AMO outside every region is an access fault. -/
theorem exec_of_no_region (h : storeAccess i s = some (ea, n) ∨ atomicAccess i s = some (ea, n))
    (hfs : isFp i = true → mstatusFS s ≠ 0) (hsc : isReservation i = false) (hp : Passes .store ea n pa s)
    (hr : regionOf s.cfg.bus pa n = none) : exec i s = .next (deliver ⟨.storeAccessFault, ea⟩ s) := by
  rcases h with h | h
  · rcases exec_of_storeAccess h with ⟨hfp, hoff, -⟩ | ⟨v, hx⟩
    · exact absurd hoff (hfs hfp)
    · rw [hx, storeBytes_none hp (physWrite_none hr)]
  · obtain ⟨rd, rs1, rs2, rfl, ⟨hres, -⟩ | ⟨kind, hx⟩⟩ := exec_of_atomicAccess h
    · simp [hsc] at hres
    · rw [hx, amo_no_region hp hr]

/-- Settles O30: each failed check is an error of `dataAddr` or of the read or write after it. -/
theorem accessTraps : Obligations.AccessTraps := by
  intro i ea n s hfs
  refine ⟨fun h => ?_, fun h => ?_⟩
  · have addr : ∀ {e}, dataAddr .load ea n s = .error e → exec i s = .next (deliver e s) :=
      fun he => exec_of_memRead_error h hfs (memRead_of_dataAddr_error he)
    refine ⟨fun hm => addr (dataAddr_misaligned hm), fun ha ht => addr (dataAddr_untranslated ha ht),
      fun ha ht => addr (dataAddr_untranslated ha ht), fun pa ha ht hp => addr (dataAddr_denied ha ht hp),
      fun pa hp hbus => exec_of_memRead_error h hfs (memRead_none hp ?_)⟩
    rcases hbus with hr | ⟨hd, hr⟩
    · exact physRead_none hr
    · rw [physRead_device hd, hr]
      rfl
  · have addr : ∀ {e}, dataAddr .store ea n s = .error e → exec i s = .next (deliver e s) :=
      exec_of_dataAddr_error h hfs
    exact ⟨fun hm => addr (dataAddr_misaligned hm), fun ha ht => addr (dataAddr_untranslated ha ht),
      fun ha ht => addr (dataAddr_untranslated ha ht), fun pa ha ht hp => addr (dataAddr_denied ha ht hp),
      fun pa hsc hp hr => exec_of_no_region h hfs hsc hp hr⟩

/-! ### What an access does to memory -/

/-- Memory is as before, or holds `n` bytes stored where the address translates to. -/
def StoresAt (ea : Word) (n : Nat) (s t : State) : Prop :=
  t.mem = s.mem ∨ ∃ pa v, translate .store .data ea s = .ok pa ∧ t.mem = writeBytes s.mem pa n v

theorem storeBytes_storesAt (ea : Word) (n : Nat) (v : Word) (s : State) : StoresAt ea n s (storeBytes ea n v s) := by
  rcases storeBytes_cases ea n v s with ⟨e, h⟩ | h | ⟨pa, ht, h⟩ <;> rw [h]
  · exact .inl (deliver_mem _ _)
  · exact .inl rfl
  · exact .inr ⟨pa, v, ht, rfl⟩

theorem storeConditional_storesAt (n : Nat) (rd rs1 rs2 : Reg) (s : State) :
    StoresAt (readX rs1 s) n s (storeConditional n rd rs1 rs2 s) := by
  rcases storeConditional_cases n rd rs1 rs2 s with ⟨e, h⟩ | h | ⟨pa, ht, ⟨e, h⟩ | ⟨w, h⟩ | ⟨w, v, h⟩⟩ <;> rw [h]
  · exact .inl (deliver_mem _ _)
  · exact .inl (writeX_mem _ _ _)
  · exact .inl (deliver_mem _ _)
  · exact .inl (writeX_mem _ _ _)
  · exact .inr ⟨pa, v, ht, writeX_mem _ _ _⟩

theorem amo_storesAt (kind : AtomicKind) (n : Nat) (rd rs1 rs2 : Reg) (s : State) :
    StoresAt (readX rs1 s) n s (amo kind n rd rs1 rs2 s) := by
  rcases amo_cases kind n rd rs1 rs2 s with ⟨e, h⟩ | ⟨w, h⟩ | ⟨pa, w, v, ht, h⟩ <;> rw [h]
  · exact .inl (deliver_mem _ _)
  · exact .inl (writeX_mem _ _ _)
  · exact .inr ⟨pa, v, ht, writeX_mem _ _ _⟩

theorem exec_storesAt (h : storeAccess i s = some (ea, n) ∨ atomicAccess i s = some (ea, n)) (hx : exec i s = .next t) :
    StoresAt ea n s t := by
  rcases h with h | h
  · rcases exec_of_storeAccess h with ⟨-, -, e, he⟩ | ⟨v, he⟩ <;> cases he.symm.trans hx
    · exact .inl (deliver_mem _ _)
    · exact storeBytes_storesAt _ _ _ _
  · obtain ⟨rd, rs1, rs2, rfl, ⟨-, he⟩ | ⟨kind, he⟩⟩ := exec_of_atomicAccess h <;> cases he.symm.trans hx
    · exact storeConditional_storesAt _ _ _ _ _
    · exact amo_storesAt _ _ _ _ _ _

/-! ### The shared operations that leave memory alone -/

theorem loadX_mem (rd : Reg) (ea : Word) (n : Nat) (ext : Ext) (s : State) : (loadX rd ea n ext s).mem = s.mem := by
  rcases loadX_cases rd ea n ext s with ⟨e, h⟩ | ⟨v, h⟩ <;> simp [h]

theorem loadF_mem (bits : Word) (fmt : Fmt) (rd : FReg) (ea : Word) (s : State) :
    (loadF bits fmt rd ea s).mem = s.mem := by
  rcases loadF_cases bits fmt rd ea s with ⟨e, h⟩ | ⟨v, -, h⟩ <;> simp [h]

theorem loadReserved_mem (n : Nat) (rd rs1 : Reg) (s : State) : (loadReserved n rd rs1 s).mem = s.mem := by
  rcases loadReserved_cases n rd rs1 s with ⟨e, h⟩ | ⟨pa, v, w, h⟩ <;> simp [h]

theorem csrOp_mem (bits : Word) (rd : Reg) (a : CsrAddr) (writes : Bool) (new : Word → Word) (s : State) :
    (csrOp bits rd a writes new s).mem = s.mem := by
  rcases csrOp_cases bits rd a writes new s with h | ⟨c, -, -, h⟩
  · simp [h]
  · cases writes <;> simp [h, csrWrite_keeps_memory]

theorem fpEnabled_mem (bits : Word) {k : State → State} (hk : (k s).mem = s.mem) :
    (fpEnabled bits s k).mem = s.mem := by
  unfold fpEnabled
  split
  · exact illegal_mem _ _
  · exact hk

theorem fpRounded_mem (bits : Word) (rm : Rm) {k : Rm → State → State} (hk : ∀ m, (k m s).mem = s.mem) :
    (fpRounded bits rm s k).mem = s.mem := by
  rcases fpRounded_cases bits rm s k with h | ⟨m, -, -, h⟩
  · simp [h]
  · exact h ▸ hk m

theorem writeFResult_mem (fmt : Fmt) (rd : FReg) (r : BitVec 64 × BitVec 5) (s : State) :
    (writeFResult fmt rd r s).mem = s.mem := by
  simp [writeFResult]

theorem writeXResult_mem (rd : Reg) (v : Word) (fl : BitVec 5) (s : State) : (writeXResult rd v fl s).mem = s.mem := by
  simp [writeXResult]

theorem breakOrHalt_mem (s : State) : (breakOrHalt s).mem = s.mem := by
  rcases breakOrHalt_cases s with ⟨-, h⟩ | ⟨-, h⟩ <;> simp [h]

/-- An instruction without a store and an atomic access leaves memory alone. -/
theorem exec_mem_of_no_access (hs : storeAccess i s = none) (ha : atomicAccess i s = none) (h : exec i s = .next t) :
    t.mem = s.mem := by
  cases i
  case sb | sh | sw | sd | fsw | fsd | cSw | cSd | cFsw | cFsd | cSwsp | cSdsp | cFswsp | cFsdsp => cases hs
  case scW | scD | amoswapW | amoaddW | amoxorW | amoandW | amoorW | amominW | amomaxW | amominuW | amomaxuW | amoswapD
      | amoaddD | amoxorD | amoandD | amoorD | amominD | amomaxD | amominuD | amomaxuD => cases ha
  case lb | lh | lw | lbu | lhu | lwu | ld | cLw | cLd | cLwsp | cLdsp => cases h; exact loadX_mem _ _ _ _ _
  case flw | fld | cFlw | cFld | cFlwsp | cFldsp => cases h; exact loadF_mem _ _ _ _ _
  case lrW | lrD => cases h; exact loadReserved_mem _ _ _ _
  case csrrw | csrrs | csrrc | csrrwi | csrrsi | csrrci => cases h; exact csrOp_mem _ _ _ _ _ _
  case faddS | fsubS | fmulS | fdivS | fsqrtS | fmaddS | fmsubS | fnmsubS | fnmaddS | faddD | fsubD | fmulD | fdivD |
      fsqrtD | fmaddD | fmsubD | fnmsubD | fnmaddD | fcvtSW | fcvtSWu | fcvtSL | fcvtSLu | fcvtDW | fcvtDWu | fcvtDL |
      fcvtDLu | fcvtSD | fcvtDS =>
    cases h; exact fpRounded_mem _ _ fun _ => writeFResult_mem _ _ _ _
  case fcvtWS | fcvtWuS | fcvtLS | fcvtLuS | fcvtWD | fcvtWuD | fcvtLD | fcvtLuD =>
    cases h; exact fpRounded_mem _ _ fun _ => writeXResult_mem _ _ _ _
  case fsgnjS | fsgnjnS | fsgnjxS | fsgnjD | fsgnjnD | fsgnjxD | fmvWX | fmvDX =>
    cases h; exact fpEnabled_mem _ (writeFDirty_mem _ _ _)
  case fminS | fmaxS | fminD | fmaxD => cases h; exact fpEnabled_mem _ (writeFResult_mem _ _ _ _)
  case feqS | fltS | fleS | feqD | fltD | fleD => cases h; exact fpEnabled_mem _ (writeXResult_mem _ _ _ _)
  case fclassS | fclassD | fmvXW | fmvXD => cases h; exact fpEnabled_mem _ (writeX_mem _ _ _)
  case ebreak | cEbreak => cases h; exact breakOrHalt_mem s
  case cIllegal => cases h; exact illegal_mem _ _
  case ecall => cases h; exact deliver_mem _ _
  case sret | mret | sfenceVma => cases h; split <;> simp
  case beq | bne | blt | bge | bltu | bgeu | cBeqz | cBnez => cases h; exact branch_mem _ _ _
  case fence | wfi | fenceI | cJ => cases h; rfl
  -- every other instruction ends in a write of `x[rd]`, the linking jumps too
  all_goals cases h; exact writeX_mem _ _ _

/-- Settles O15: no access, no change; with one, what `StoresAt` allows. -/
theorem memoryChangesOnlyByStores : Obligations.MemoryChangesOnlyByStores := by
  intro i s t h
  refine ⟨fun hs ha => exec_mem_of_no_access hs ha h, fun ea n hacc => ⟨fun pa ht => ?_, fun k ht => ?_⟩⟩
  · rcases exec_storesAt hacc h with hm | ⟨pa', v, ht', hm⟩
    · exact fun b _ => by rw [hm]
    · rw [ht] at ht'
      cases ht'
      exact sameMemoryOutside_writeBytes s pa n v t hm
  · rcases exec_storesAt hacc h with hm | ⟨pa', v, ht', hm⟩
    · exact hm
    · rw [ht] at ht'
      cases ht'

end Sys2Proof.Machine
end

section
/-!
The formats of 30_encoding.md rules R333 and R380 the other way round: a word, or a parcel, is its format's encoding of
its own fields. With Laws/Encoding.lean, which reads the fields of an encoding back, a format and its fields determine
each other.
-/

namespace Sys2Proof

variable {w : BitVec 32} {c : BitVec 16}

/-! ### Words from their fields -/

theorem encR_fields {op f7 rs2 f3}
    (hop : fOpcode w = op) (h7 : fFunct7 w = f7) (h2 : fRs2 w = rs2) (h3 : fFunct3 w = f3) :
    encR f7 rs2 (fRs1 w) f3 (fRd w) op = w := by
  subst hop h7 h2 h3
  refine BitVec.eq_of_getLsbD_eq fun i hi => ?_
  simp only [encR, fFunct7, fRs2, fRs1, fFunct3, fRd, fOpcode, BitVec.getLsbD_extractLsb', BitVec.getLsbD_append]
  interval_cases i <;> simp

theorem encI_fields {op f3} (hop : fOpcode w = op) (h3 : fFunct3 w = f3) :
    encI (fImmI w) (fRs1 w) f3 (fRd w) op = w := by
  subst hop h3
  refine BitVec.eq_of_getLsbD_eq fun i hi => ?_
  simp only [encI, fImmI, fRs1, fFunct3, fRd, fOpcode, BitVec.getLsbD_extractLsb', BitVec.getLsbD_append]
  interval_cases i <;> simp

theorem encS_fields {op f3} (hop : fOpcode w = op) (h3 : fFunct3 w = f3) :
    encS (fImmS w) (fRs2 w) (fRs1 w) f3 op = w := by
  subst hop h3
  refine BitVec.eq_of_getLsbD_eq fun i hi => ?_
  simp only [encS, fImmS, fRs2, fRs1, fFunct3, fOpcode, BitVec.getLsbD_extractLsb', BitVec.getLsbD_append]
  interval_cases i <;> simp

theorem encB_fields {op f3} (hop : fOpcode w = op) (h3 : fFunct3 w = f3) :
    encB (fImmB w) (fRs2 w) (fRs1 w) f3 op = w := by
  subst hop h3
  refine BitVec.eq_of_getLsbD_eq fun i hi => ?_
  simp only [encB, fImmB, fRs2, fRs1, fFunct3, fOpcode, BitVec.getLsbD_extractLsb', BitVec.getLsbD_append]
  interval_cases i <;> simp

theorem encU_fields {op} (hop : fOpcode w = op) : encU (fImmU w) (fRd w) op = w := by
  subst hop
  refine BitVec.eq_of_getLsbD_eq fun i hi => ?_
  simp only [encU, fImmU, fRd, fOpcode, BitVec.getLsbD_extractLsb', BitVec.getLsbD_append]
  interval_cases i <;> simp

theorem encJ_fields {op} (hop : fOpcode w = op) : encJ (fImmJ w) (fRd w) op = w := by
  subst hop
  refine BitVec.eq_of_getLsbD_eq fun i hi => ?_
  simp only [encJ, fImmJ, fRd, fOpcode, BitVec.getLsbD_extractLsb', BitVec.getLsbD_append]
  interval_cases i <;> simp

theorem encSh_fields {op f6 f3} (hop : fOpcode w = op) (h6 : fFunct6 w = f6) (h3 : fFunct3 w = f3) :
    encSh f6 (fShamt w) (fRs1 w) f3 (fRd w) op = w := by
  subst hop h6 h3
  refine BitVec.eq_of_getLsbD_eq fun i hi => ?_
  simp only [encSh, fFunct6, fShamt, fRs1, fFunct3, fRd, fOpcode, BitVec.getLsbD_extractLsb', BitVec.getLsbD_append]
  interval_cases i <;> simp

theorem encAmo_fields {op f5 rs2 f3}
    (hop : fOpcode w = op) (h5 : fFunct5 w = f5) (h2 : fRs2 w = rs2) (h3 : fFunct3 w = f3) :
    encAmo f5 (fAq w) (fRl w) rs2 (fRs1 w) f3 (fRd w) op = w := by
  subst hop h5 h2 h3
  refine BitVec.eq_of_getLsbD_eq fun i hi => ?_
  simp only [encAmo, fFunct5, fAq, fRl, fRs2, fRs1, fFunct3, fRd, fOpcode, BitVec.getLsbD_extractLsb',
    BitVec.getLsbD_append]
  interval_cases i <;> simp

theorem encR4_fields {op fmt} (hop : fOpcode w = op) (hf : fFmt w = fmt) :
    encR4 (fFunct5 w) fmt (fRs2 w) (fRs1 w) (fFunct3 w) (fRd w) op = w := by
  subst hop hf
  refine BitVec.eq_of_getLsbD_eq fun i hi => ?_
  simp only [encR4, fFunct5, fFmt, fRs2, fRs1, fFunct3, fRd, fOpcode, BitVec.getLsbD_extractLsb', BitVec.getLsbD_append]
  interval_cases i <;> simp

/-- The funct7 of a floating-point word is its funct5 and its `fmt` (rule R358). -/
theorem fFunct7_eq_append : fFunct7 w = fFunct5 w ++ fFmt w := by
  refine BitVec.eq_of_getLsbD_eq fun i hi => ?_
  simp only [fFunct7, fFunct5, fFmt, BitVec.getLsbD_extractLsb', BitVec.getLsbD_append]
  interval_cases i <;> simp

/-- The I-immediate of FENCE is its three sets (rule R355). -/
theorem fImmI_eq_append : fImmI w = w.extractLsb' 28 4 ++ w.extractLsb' 24 4 ++ w.extractLsb' 20 4 := by
  refine BitVec.eq_of_getLsbD_eq fun i hi => ?_
  simp only [fImmI, BitVec.getLsbD_extractLsb', BitVec.getLsbD_append]
  interval_cases i <;> simp

theorem encR_fp_fields {op f7 rs2 f3 f5 fmt} (hop : fOpcode w = op) (hf : fFmt w = fmt) (h5 : fFunct5 w = f5)
    (h2 : fRs2 w = rs2) (h3 : fFunct3 w = f3) (h7 : f5 ++ fmt = f7) :
    encR f7 rs2 (fRs1 w) f3 (fRd w) op = w :=
  encR_fields hop (by rw [fFunct7_eq_append, h5, hf, h7]) h2 h3

/-! ### Parcels from their fields -/

theorem encCI_fields {q f3 rd} (hq : cQuadrant c = q) (h3 : cFunct3 c = f3) (hrd : cRd c = rd) :
    encCI f3 (cImm6 c) rd q = c := by
  subst hq h3 hrd
  refine BitVec.eq_of_getLsbD_eq fun i hi => ?_
  simp only [encCI, cImm6, cRd, cFunct3, cQuadrant, BitVec.getLsbD_extractLsb', BitVec.getLsbD_append]
  interval_cases i <;> simp

theorem encCIW_fields {q f3} (hq : cQuadrant c = q) (h3 : cFunct3 c = f3) :
    encCIW f3 (cImm4spn c) (cLow3 c) q = c := by
  subst hq h3
  refine BitVec.eq_of_getLsbD_eq fun i hi => ?_
  simp only [encCIW, cImm4spn, cLow3, cFunct3, cQuadrant, BitVec.getLsbD_extractLsb', BitVec.getLsbD_append]
  interval_cases i <;> simp

theorem encCLW_fields {q f3} (hq : cQuadrant c = q) (h3 : cFunct3 c = f3) :
    encCLW f3 (cImmLw c) (cHigh3 c) (cLow3 c) q = c := by
  subst hq h3
  refine BitVec.eq_of_getLsbD_eq fun i hi => ?_
  simp only [encCLW, cImmLw, cHigh3, cLow3, cFunct3, cQuadrant, BitVec.getLsbD_extractLsb', BitVec.getLsbD_append]
  interval_cases i <;> simp

theorem encCLD_fields {q f3} (hq : cQuadrant c = q) (h3 : cFunct3 c = f3) :
    encCLD f3 (cImmLd c) (cHigh3 c) (cLow3 c) q = c := by
  subst hq h3
  refine BitVec.eq_of_getLsbD_eq fun i hi => ?_
  simp only [encCLD, cImmLd, cHigh3, cLow3, cFunct3, cQuadrant, BitVec.getLsbD_extractLsb', BitVec.getLsbD_append]
  interval_cases i <;> simp

theorem encCJ_fields {q f3} (hq : cQuadrant c = q) (h3 : cFunct3 c = f3) : encCJ f3 (cImmJ c) q = c := by
  subst hq h3
  refine BitVec.eq_of_getLsbD_eq fun i hi => ?_
  simp only [encCJ, cImmJ, cFunct3, cQuadrant, BitVec.getLsbD_extractLsb', BitVec.getLsbD_append]
  interval_cases i <;> simp

theorem encCBr_fields {q f3} (hq : cQuadrant c = q) (h3 : cFunct3 c = f3) :
    encCBr f3 (cImmB c) (cHigh3 c) q = c := by
  subst hq h3
  refine BitVec.eq_of_getLsbD_eq fun i hi => ?_
  simp only [encCBr, cImmB, cHigh3, cFunct3, cQuadrant, BitVec.getLsbD_extractLsb', BitVec.getLsbD_append]
  interval_cases i <;> simp

theorem encCLDSP_fields {q f3} (hq : cQuadrant c = q) (h3 : cFunct3 c = f3) :
    encCLDSP f3 (cImmLdsp c) (cRd c) q = c := by
  subst hq h3
  refine BitVec.eq_of_getLsbD_eq fun i hi => ?_
  simp only [encCLDSP, cImmLdsp, cRd, cFunct3, cQuadrant, BitVec.getLsbD_extractLsb', BitVec.getLsbD_append]
  interval_cases i <;> simp

theorem encCLWSP_fields {q f3} (hq : cQuadrant c = q) (h3 : cFunct3 c = f3) :
    encCLWSP f3 (cImmLwsp c) (cRd c) q = c := by
  subst hq h3
  refine BitVec.eq_of_getLsbD_eq fun i hi => ?_
  simp only [encCLWSP, cImmLwsp, cRd, cFunct3, cQuadrant, BitVec.getLsbD_extractLsb', BitVec.getLsbD_append]
  interval_cases i <;> simp

theorem encCSDSP_fields {q f3} (hq : cQuadrant c = q) (h3 : cFunct3 c = f3) :
    encCSDSP f3 (cImmSdsp c) (cRs2 c) q = c := by
  subst hq h3
  refine BitVec.eq_of_getLsbD_eq fun i hi => ?_
  simp only [encCSDSP, cImmSdsp, cRs2, cFunct3, cQuadrant, BitVec.getLsbD_extractLsb', BitVec.getLsbD_append]
  interval_cases i <;> simp

theorem encCSWSP_fields {q f3} (hq : cQuadrant c = q) (h3 : cFunct3 c = f3) :
    encCSWSP f3 (cImmSwsp c) (cRs2 c) q = c := by
  subst hq h3
  refine BitVec.eq_of_getLsbD_eq fun i hi => ?_
  simp only [encCSWSP, cImmSwsp, cRs2, cFunct3, cQuadrant, BitVec.getLsbD_extractLsb', BitVec.getLsbD_append]
  interval_cases i <;> simp

theorem encCB_fields {q f3 f2} (hq : cQuadrant c = q) (h3 : cFunct3 c = f3) (h10 : c.extractLsb' 10 2 = f2) :
    encCB f3 f2 (cImm6 c) (cHigh3 c) q = c := by
  subst hq h3 h10
  refine BitVec.eq_of_getLsbD_eq fun i hi => ?_
  simp only [encCB, cImm6, cHigh3, cFunct3, cQuadrant, BitVec.getLsbD_extractLsb', BitVec.getLsbD_append]
  interval_cases i <;> simp

theorem encC16SP_fields {q f3} (hq : cQuadrant c = q) (h3 : cFunct3 c = f3) (hrd : cRd c = 2#5) :
    encC16SP f3 (cImm16sp c) q = c := by
  rw [encC16SP, ← hrd]
  subst hq h3
  refine BitVec.eq_of_getLsbD_eq fun i hi => ?_
  simp only [cRd, cImm16sp, cFunct3, cQuadrant, BitVec.getLsbD_extractLsb', BitVec.getLsbD_append]
  interval_cases i <;> simp

theorem encCA_fields {q f3 b f10 f5 f6} (hq : cQuadrant c = q) (h3 : cFunct3 c = f3) (h12 : c.extractLsb' 12 1 = b)
    (h10 : c.extractLsb' 10 2 = f10) (h5 : c.extractLsb' 5 2 = f5) (h6 : f3 ++ b ++ f10 = f6) :
    encCA f6 (cHigh3 c) f5 (cLow3 c) q = c := by
  subst hq h3 h12 h10 h5 h6
  refine BitVec.eq_of_getLsbD_eq fun i hi => ?_
  simp only [encCA, cHigh3, cLow3, cFunct3, cQuadrant, BitVec.getLsbD_extractLsb', BitVec.getLsbD_append]
  interval_cases i <;> simp

theorem encCR_fields {q f3 b rd rs2 f4} (hq : cQuadrant c = q) (h3 : cFunct3 c = f3) (h12 : c.extractLsb' 12 1 = b)
    (hrd : cRd c = rd) (h2 : cRs2 c = rs2) (h4 : f3 ++ b = f4) : encCR f4 rd rs2 q = c := by
  subst hq h3 h12 hrd h2 h4
  refine BitVec.eq_of_getLsbD_eq fun i hi => ?_
  simp only [encCR, cRd, cRs2, cFunct3, cQuadrant, BitVec.getLsbD_extractLsb', BitVec.getLsbD_append]
  interval_cases i <;> simp

/-! ### Fields read back -/

@[simp] theorem fFunct5_encR (f7 : BitVec 7) (rs2 rs1 : BitVec 5) (f3 : BitVec 3) (rd : BitVec 5) (op : BitVec 7) :
    fFunct5 (encR f7 rs2 rs1 f3 rd op) = f7.extractLsb' 2 5 := by
  refine BitVec.eq_of_getLsbD_eq fun i hi => ?_
  simp only [fFunct5, encR, BitVec.getLsbD_extractLsb', BitVec.getLsbD_append]
  interval_cases i <;> simp

@[simp] theorem fFmt_encR (f7 : BitVec 7) (rs2 rs1 : BitVec 5) (f3 : BitVec 3) (rd : BitVec 5) (op : BitVec 7) :
    fFmt (encR f7 rs2 rs1 f3 rd op) = f7.extractLsb' 0 2 := by
  refine BitVec.eq_of_getLsbD_eq fun i hi => ?_
  simp only [fFmt, encR, BitVec.getLsbD_extractLsb', BitVec.getLsbD_append]
  interval_cases i <;> simp

theorem fence_sets_encI (fm pred succ : BitVec 4) (rs1 : BitVec 5) (f3 : BitVec 3) (rd : BitVec 5) (op : BitVec 7) :
    (encI (fm ++ pred ++ succ) rs1 f3 rd op).extractLsb' 28 4 = fm
    ∧ (encI (fm ++ pred ++ succ) rs1 f3 rd op).extractLsb' 24 4 = pred
    ∧ (encI (fm ++ pred ++ succ) rs1 f3 rd op).extractLsb' 20 4 = succ := by
  refine ⟨?_, ?_, ?_⟩ <;>
  · refine BitVec.eq_of_getLsbD_eq fun i hi => ?_
    simp only [encI, BitVec.getLsbD_extractLsb', BitVec.getLsbD_append]
    interval_cases i <;> simp

@[simp] theorem cFunct3_encCA (f6 : BitVec 6) (rd : BitVec 3) (f2 : BitVec 2) (rs2 : BitVec 3) (q : BitVec 2) :
    cFunct3 (encCA f6 rd f2 rs2 q) = f6.extractLsb' 3 3 := by
  refine BitVec.eq_of_getLsbD_eq fun i hi => ?_
  simp only [cFunct3, encCA, BitVec.getLsbD_extractLsb', BitVec.getLsbD_append]
  interval_cases i <;> simp

@[simp] theorem funct1_encCA (f6 : BitVec 6) (rd : BitVec 3) (f2 : BitVec 2) (rs2 : BitVec 3) (q : BitVec 2) :
    (encCA f6 rd f2 rs2 q).extractLsb' 12 1 = f6.extractLsb' 2 1 := by
  refine BitVec.eq_of_getLsbD_eq fun i hi => ?_
  simp only [encCA, BitVec.getLsbD_extractLsb', BitVec.getLsbD_append]
  interval_cases i
  simp

@[simp] theorem funct2_encCA (f6 : BitVec 6) (rd : BitVec 3) (f2 : BitVec 2) (rs2 : BitVec 3) (q : BitVec 2) :
    (encCA f6 rd f2 rs2 q).extractLsb' 10 2 = f6.extractLsb' 0 2 := by
  refine BitVec.eq_of_getLsbD_eq fun i hi => ?_
  simp only [encCA, BitVec.getLsbD_extractLsb', BitVec.getLsbD_append]
  interval_cases i <;> simp

@[simp] theorem op2_encCA (f6 : BitVec 6) (rd : BitVec 3) (f2 : BitVec 2) (rs2 : BitVec 3) (q : BitVec 2) :
    (encCA f6 rd f2 rs2 q).extractLsb' 5 2 = f2 := by
  refine BitVec.eq_of_getLsbD_eq fun i hi => ?_
  simp only [encCA, BitVec.getLsbD_extractLsb', BitVec.getLsbD_append]
  interval_cases i <;> simp

@[simp] theorem cFunct3_encCR (f4 : BitVec 4) (rd rs2 : BitVec 5) (q : BitVec 2) :
    cFunct3 (encCR f4 rd rs2 q) = f4.extractLsb' 1 3 := by
  refine BitVec.eq_of_getLsbD_eq fun i hi => ?_
  simp only [cFunct3, encCR, BitVec.getLsbD_extractLsb', BitVec.getLsbD_append]
  interval_cases i <;> simp

@[simp] theorem funct1_encCR (f4 : BitVec 4) (rd rs2 : BitVec 5) (q : BitVec 2) :
    (encCR f4 rd rs2 q).extractLsb' 12 1 = f4.extractLsb' 0 1 := by
  refine BitVec.eq_of_getLsbD_eq fun i hi => ?_
  simp only [encCR, BitVec.getLsbD_extractLsb', BitVec.getLsbD_append]
  interval_cases i
  simp

@[simp] theorem funct2_encCB (f3 : BitVec 3) (f2 : BitVec 2) (imm : BitVec 6) (rd : BitVec 3) (q : BitVec 2) :
    (encCB f3 f2 imm rd q).extractLsb' 10 2 = f2 := by
  refine BitVec.eq_of_getLsbD_eq fun i hi => ?_
  simp only [encCB, BitVec.getLsbD_extractLsb', BitVec.getLsbD_append]
  interval_cases i <;> simp

end Sys2Proof
end

section
/-!
The reserved compressed encodings (30_encoding.md rule R385): what the masks of the table's rows say about the fields
that the decoder reads.
-/

namespace Sys2Proof

variable {xl : Xlen} {c d m : BitVec 16}

/-! ### Slices of a parcel: each mask of a row keeps or drops one as a whole, but for `c[6:5]` -/

/-- Two parcels are equal when their slices are. -/
theorem parcel_eq_iff : c = d ↔
    cFunct3 c = cFunct3 d ∧ c.extractLsb' 12 1 = d.extractLsb' 12 1 ∧ c.extractLsb' 10 2 = d.extractLsb' 10 2
    ∧ cHigh3 c = cHigh3 d ∧ c.extractLsb' 5 2 = d.extractLsb' 5 2 ∧ cLow3 c = cLow3 d ∧ cQuadrant c = cQuadrant d := by
  constructor
  · rintro rfl
    simp
  · rintro ⟨h3, h12, h10, hh, h5, hl, hq⟩
    rw [← encCA_fields rfl rfl rfl rfl rfl rfl (c := c), h3, h12, h10, hh, h5, hl, hq]
    exact encCA_fields rfl rfl rfl rfl rfl rfl

theorem masked_eq_iff : c &&& m = d ↔
    cFunct3 c &&& m.extractLsb' 13 3 = d.extractLsb' 13 3
    ∧ c.extractLsb' 12 1 &&& m.extractLsb' 12 1 = d.extractLsb' 12 1
    ∧ c.extractLsb' 10 2 &&& m.extractLsb' 10 2 = d.extractLsb' 10 2
    ∧ cHigh3 c &&& m.extractLsb' 7 3 = d.extractLsb' 7 3
    ∧ c.extractLsb' 5 2 &&& m.extractLsb' 5 2 = d.extractLsb' 5 2
    ∧ cLow3 c &&& m.extractLsb' 2 3 = d.extractLsb' 2 3
    ∧ cQuadrant c &&& m.extractLsb' 0 2 = d.extractLsb' 0 2 := by
  rw [parcel_eq_iff]
  simp only [cFunct3, cHigh3, cLow3, cQuadrant, BitVec.extractLsb'_and]

/-! ### A field that is 0, by slices -/

theorem append_eq_zero_iff {m n : Nat} {x : BitVec m} {y : BitVec n} : x ++ y = 0#(m + n) ↔ x = 0#m ∧ y = 0#n := by
  constructor
  · intro h
    have hx := congrArg (BitVec.extractLsb' n m) h
    have hy := congrArg (BitVec.extractLsb' 0 n) h
    rw [BitVec.extractLsb'_append_eq_left] at hx
    rw [BitVec.extractLsb'_append_eq_right] at hy
    exact ⟨by simpa using hx, by simpa using hy⟩
  · rintro ⟨rfl, rfl⟩
    simp

theorem cRd_eq_zero_iff : cRd c = 0#5 ↔ c.extractLsb' 10 2 = 0#2 ∧ cHigh3 c = 0#3 := by
  have h : cRd c = c.extractLsb' 10 2 ++ cHigh3 c :=
    (BitVec.extractLsb'_append_extractLsb'_eq_extractLsb' (start₁ := 7) (len₁ := 3) (len₂ := 2) rfl).symm
  rw [h]
  exact append_eq_zero_iff

theorem cRs2_eq_zero_iff : cRs2 c = 0#5 ↔ c.extractLsb' 5 2 = 0#2 ∧ cLow3 c = 0#3 := by
  have h : cRs2 c = c.extractLsb' 5 2 ++ cLow3 c :=
    (BitVec.extractLsb'_append_extractLsb'_eq_extractLsb' (start₁ := 2) (len₁ := 3) (len₂ := 2) rfl).symm
  rw [h]
  exact append_eq_zero_iff

theorem cImm6_eq_zero_iff : cImm6 c = 0#6 ↔ c.extractLsb' 12 1 = 0#1 ∧ cRs2 c = 0#5 := append_eq_zero_iff

theorem cImm4spn_eq_zero_iff : cImm4spn c = 0#8 ↔
    c.extractLsb' 12 1 = 0#1 ∧ c.extractLsb' 10 2 = 0#2 ∧ cHigh3 c = 0#3 ∧ c.extractLsb' 5 2 = 0#2 := by
  have h : cImm4spn c = (c.extractLsb' 10 2).extractLsb' 0 1 ++ cHigh3 c ++ c.extractLsb' 12 1
      ++ (c.extractLsb' 10 2).extractLsb' 1 1 ++ (c.extractLsb' 5 2).extractLsb' 0 1
      ++ (c.extractLsb' 5 2).extractLsb' 1 1 := by
    refine BitVec.eq_of_getLsbD_eq fun i hi => ?_
    simp only [cImm4spn, cHigh3, BitVec.getLsbD_extractLsb', BitVec.getLsbD_append]
    interval_cases i <;> simp
  rw [h]
  generalize c.extractLsb' 12 1 = b
  generalize c.extractLsb' 10 2 = x
  generalize cHigh3 c = y
  generalize c.extractLsb' 5 2 = z
  revert b x y z
  decide

theorem cImm16sp_eq_zero_iff : cImm16sp c = 0#6 ↔ cImm6 c = 0#6 := by
  have hperm : cImm16sp c = (cImm6 c).extractLsb' 5 1 ++ (cImm6 c).extractLsb' 1 2 ++ (cImm6 c).extractLsb' 3 1
      ++ (cImm6 c).extractLsb' 0 1 ++ (cImm6 c).extractLsb' 4 1 := by
    refine BitVec.eq_of_getLsbD_eq fun i hi => ?_
    simp only [cImm16sp, cImm6, BitVec.getLsbD_extractLsb', BitVec.getLsbD_append]
    interval_cases i <;> simp
  have hzero : ∀ b : BitVec 6, b.extractLsb' 5 1 ++ b.extractLsb' 1 2 ++ b.extractLsb' 3 1 ++ b.extractLsb' 0 1
      ++ b.extractLsb' 4 1 = 0#6 ↔ b = 0#6 := by decide
  rw [hperm]
  exact hzero _

/-- A shift amount is refused with XLEN = 32 and its top bit set (rule R384). -/
theorem shamtOk_cImm6_eq_false_iff : shamtOk xl (cImm6 c) = false ↔ xl = .rv32 ∧ c.extractLsb' 12 1 = 1#1 := by
  have hmsb : (cImm6 c).msb = (c.extractLsb' 12 1).msb := BitVec.msb_append
  have hone : ∀ b : BitVec 1, b.msb = true ↔ b = 1#1 := by decide
  cases xl
  case rv32 => simp only [shamtOk, hmsb, Bool.not_eq_false', hone, true_and]
  case rv64 => simp [shamtOk]

/-! ### Masks that keep a whole slice, as the literals of the rows -/

theorem and_one_eq_self (b : BitVec 1) : b &&& 1#1 = b := BitVec.and_allOnes

theorem and_three_eq_self (b : BitVec 2) : b &&& 3#2 = b := BitVec.and_allOnes

theorem and_seven_eq_self (b : BitVec 3) : b &&& 7#3 = b := BitVec.and_allOnes

theorem and_two_eq_two_iff : ∀ b : BitVec 2, b &&& 2#2 = 2#2 ↔ b = 2#2 ∨ b = 3#2 := by decide

/-- The reserved parcels by the fields the decoder reads, in the order of the table's rows. -/
theorem reserved16_iff : reserved16 xl c = true ↔
    (cFunct3 c = 0#3 ∧ cImm4spn c = 0#8 ∧ cLow3 c = 0#3 ∧ cQuadrant c = 0#2)
    ∨ (cFunct3 c = 0#3 ∧ cImm4spn c = 0#8 ∧ cQuadrant c = 0#2)
    ∨ (cFunct3 c = 4#3 ∧ cQuadrant c = 0#2)
    ∨ (xl = .rv64 ∧ cFunct3 c = 1#3 ∧ cRd c = 0#5 ∧ cQuadrant c = 1#2)
    ∨ (cFunct3 c = 3#3 ∧ cImm6 c = 0#6 ∧ cQuadrant c = 1#2)
    ∨ (xl = .rv32 ∧ cFunct3 c = 4#3 ∧ c.extractLsb' 12 1 = 1#1 ∧ c.extractLsb' 10 2 = 0#2 ∧ cQuadrant c = 1#2)
    ∨ (xl = .rv32 ∧ cFunct3 c = 4#3 ∧ c.extractLsb' 12 1 = 1#1 ∧ c.extractLsb' 10 2 = 1#2 ∧ cQuadrant c = 1#2)
    ∨ (xl = .rv32 ∧ cFunct3 c = 4#3 ∧ c.extractLsb' 12 1 = 1#1 ∧ c.extractLsb' 10 2 = 3#2 ∧ cQuadrant c = 1#2)
    ∨ (xl = .rv64 ∧ cFunct3 c = 4#3 ∧ c.extractLsb' 12 1 = 1#1 ∧ c.extractLsb' 10 2 = 3#2
      ∧ (c.extractLsb' 5 2 = 2#2 ∨ c.extractLsb' 5 2 = 3#2) ∧ cQuadrant c = 1#2)
    ∨ (xl = .rv32 ∧ cFunct3 c = 0#3 ∧ c.extractLsb' 12 1 = 1#1 ∧ cQuadrant c = 2#2)
    ∨ (cFunct3 c = 2#3 ∧ cRd c = 0#5 ∧ cQuadrant c = 2#2)
    ∨ (xl = .rv64 ∧ cFunct3 c = 3#3 ∧ cRd c = 0#5 ∧ cQuadrant c = 2#2)
    ∨ (cFunct3 c = 4#3 ∧ c.extractLsb' 12 1 = 0#1 ∧ cRd c = 0#5 ∧ cRs2 c = 0#5 ∧ cQuadrant c = 2#2) := by
  rw [cImm4spn_eq_zero_iff, cImm6_eq_zero_iff, cRd_eq_zero_iff, cRs2_eq_zero_iff]
  cases xl <;>
    simp [reserved16, reservedRows16, masked_eq_iff, and_one_eq_self, and_three_eq_self, and_seven_eq_self,
      and_two_eq_two_iff, and_assoc]

end Sys2Proof
end

section
/-!
What the decoder reads from a word is an instruction of the build that encodes to that word (30_encoding.md rules R330
to R332, R350 to R358, R383): one lemma for each decoder of the opcode map, from the fields that its arms have tested.
-/

namespace Sys2Proof

variable {xl : Xlen} {w : BitVec 32} {c d : BitVec 16} {i j : Instr} {e : Encoded}

/-! ### What the last arm of a match on a field knows of it -/

theorem eq_one_of_ne {b : BitVec 1} (h0 : b ≠ 0#1) : b = 1#1 := by bv_omega

theorem eq_three_of_ne {b : BitVec 2} (h0 : b ≠ 0#2) (h1 : b ≠ 1#2) (h2 : b ≠ 2#2) : b = 3#2 := by bv_omega

theorem eq_two_or_three_of_ne {b : BitVec 2} (h0 : b ≠ 0#2) (h1 : b ≠ 1#2) : b = 2#2 ∨ b = 3#2 := by bv_omega

theorem eq_seven_of_ne {b : BitVec 3} (h0 : b ≠ 0#3) (h1 : b ≠ 1#3) (h2 : b ≠ 2#3) (h3 : b ≠ 3#3) (h4 : b ≠ 4#3)
    (h5 : b ≠ 5#3) (h6 : b ≠ 6#3) : b = 7#3 := by bv_omega

/-! ### How an instruction comes to encode to a word or parcel -/

/-- The instruction is one of the build, and this is its encoding. -/
def EncodesTo (xl : Xlen) (i : Instr) (e : Encoded) : Prop := i.wf xl = true ∧ encode i = e

theorem EncodesTo.word {v : BitVec 32} (hwf : i.wf xl = true) (he : encode i = .word v) (hv : v = w) :
    EncodesTo xl i (.word w) := ⟨hwf, hv ▸ he⟩

theorem EncodesTo.parcel (hwf : i.wf xl = true) (he : encode i = .parcel d) (hd : d = c) :
    EncodesTo xl i (.parcel c) := ⟨hwf, hd ▸ he⟩

theorem EncodesTo.illegal (h : reserved16 xl c = true) : EncodesTo xl (.cIllegal c) (.parcel c) := ⟨h, rfl⟩

theorem EncodesTo.of_some (h : some j = some i) (hj : EncodesTo xl j e) : EncodesTo xl i e := by
  cases h; exact hj

theorem EncodesTo.of_only64 (h : only64 xl j = some i) (hj : EncodesTo .rv64 j e) : EncodesTo xl i e := by
  cases xl <;> cases h; exact hj

theorem EncodesTo.of_shiftAmount {f : BitVec 6 → Instr} (h : shiftAmount xl w f = some i)
    (hf : shamtOk xl (fShamt w) = true → EncodesTo xl (f (fShamt w)) e) : EncodesTo xl i e := by
  rw [shiftAmount] at h
  split at h
  case isTrue hok => exact .of_some h (hf hok)
  case isFalse => cases h

/-! ### Words -/

theorem decodeLoad_encodesTo (hop : fOpcode w = 0x03#7) (h : decodeLoad xl w = some i) :
    EncodesTo xl i (.word w) := by
  unfold decodeLoad at h
  split at h
  case h_4 | h_7 => exact .of_only64 h (.word rfl rfl (encI_fields hop ‹_›))
  case h_8 => cases h
  all_goals exact .of_some h (.word rfl rfl (encI_fields hop ‹_›))

theorem decodeStore_encodesTo (hop : fOpcode w = 0x23#7) (h : decodeStore xl w = some i) :
    EncodesTo xl i (.word w) := by
  unfold decodeStore at h
  split at h
  case h_4 => exact .of_only64 h (.word rfl rfl (encS_fields hop ‹_›))
  case h_5 => cases h
  all_goals exact .of_some h (.word rfl rfl (encS_fields hop ‹_›))

theorem decodeLoadFp_encodesTo (hop : fOpcode w = 0x07#7) (h : decodeLoadFp w = some i) :
    EncodesTo xl i (.word w) := by
  unfold decodeLoadFp at h
  split at h
  case h_3 => cases h
  all_goals exact .of_some h (.word rfl rfl (encI_fields hop ‹_›))

theorem decodeStoreFp_encodesTo (hop : fOpcode w = 0x27#7) (h : decodeStoreFp w = some i) :
    EncodesTo xl i (.word w) := by
  unfold decodeStoreFp at h
  split at h
  case h_3 => cases h
  all_goals exact .of_some h (.word rfl rfl (encS_fields hop ‹_›))

theorem decodeOpImm_encodesTo (hop : fOpcode w = 0x13#7) (h : decodeOpImm xl w = some i) :
    EncodesTo xl i (.word w) := by
  unfold decodeOpImm at h
  split at h
  case h_2 h3 =>
    split at h
    case isTrue h6 => exact .of_shiftAmount h fun hok => .word hok rfl (encSh_fields hop h6 h3)
    case isFalse => cases h
  case h_6 h3 =>
    split at h
    case isTrue h6 => exact .of_shiftAmount h fun hok => .word hok rfl (encSh_fields hop h6 h3)
    case isFalse =>
      split at h
      case isTrue h6 => exact .of_shiftAmount h fun hok => .word hok rfl (encSh_fields hop h6 h3)
      case isFalse => cases h
  case h_8 h0 h1 h2 h3 h4 h5 h6 =>
    have h7 := eq_seven_of_ne h0 h1 h2 h3 h4 h5 h6
    exact .of_some h (.word rfl rfl (encI_fields hop h7))
  all_goals exact .of_some h (.word rfl rfl (encI_fields hop ‹_›))

theorem decodeOpImm32_encodesTo (hop : fOpcode w = 0x1B#7) (h : decodeOpImm32 xl w = some i) :
    EncodesTo xl i (.word w) := by
  unfold decodeOpImm32 at h
  split at h
  case h_1 h3 => exact .of_only64 h (.word rfl rfl (encI_fields hop h3))
  case h_5 => cases h
  all_goals exact .of_only64 h (.word rfl rfl (encR_fields hop ‹_› rfl ‹_›))

theorem decodeOp_encodesTo (hop : fOpcode w = 0x33#7) (h : decodeOp w = some i) : EncodesTo xl i (.word w) := by
  unfold decodeOp at h
  split at h
  case h_19 => cases h
  all_goals exact .of_some h (.word rfl rfl (encR_fields hop ‹_› rfl ‹_›))

theorem decodeOp32_encodesTo (hop : fOpcode w = 0x3B#7) (h : decodeOp32 xl w = some i) :
    EncodesTo xl i (.word w) := by
  unfold decodeOp32 at h
  split at h
  case h_11 => cases h
  all_goals exact .of_only64 h (.word rfl rfl (encR_fields hop ‹_› rfl ‹_›))

theorem decodeBranch_encodesTo (hop : fOpcode w = 0x63#7) (h : decodeBranch w = some i) :
    EncodesTo xl i (.word w) := by
  unfold decodeBranch at h
  split at h
  case h_7 => cases h
  all_goals exact .of_some h (.word rfl rfl (encB_fields hop ‹_›))

theorem decodeMiscMem_encodesTo (hop : fOpcode w = 0x0F#7) (h : decodeMiscMem w = some i) :
    EncodesTo xl i (.word w) := by
  unfold decodeMiscMem at h
  split at h
  case h_1 h3 => exact .of_some h (.word rfl rfl (by rw [← fImmI_eq_append]; exact encI_fields hop h3))
  case h_2 h3 => exact .of_some h (.word rfl rfl (encI_fields hop h3))
  case h_3 => cases h

theorem decodeSystem0_encodesTo (hop : fOpcode w = 0x73#7) (h3 : fFunct3 w = 0#3) (h : decodeSystem0 w = some i) :
    EncodesTo xl i (.word w) := by
  unfold decodeSystem0 at h
  split_ifs at h with he hb hs hm hw hf
  · exact .of_some h (.word rfl rfl he.symm)
  · exact .of_some h (.word rfl rfl hb.symm)
  · exact .of_some h (.word rfl rfl hs.symm)
  · exact .of_some h (.word rfl rfl hm.symm)
  · exact .of_some h (.word rfl rfl hw.symm)
  · obtain ⟨h7, hrd⟩ := hf
    exact .of_some h (.word rfl rfl (hrd ▸ encR_fields hop h7 rfl h3))

theorem decodeSystem_encodesTo (hop : fOpcode w = 0x73#7) (h : decodeSystem w = some i) :
    EncodesTo xl i (.word w) := by
  unfold decodeSystem at h
  split at h
  case h_1 h3 => exact decodeSystem0_encodesTo hop h3 h
  case h_8 => cases h
  all_goals exact .of_some h (.word rfl rfl (encI_fields hop ‹_›))

theorem decodeAmoW_encodesTo (hop : fOpcode w = 0x2F#7) (h3 : fFunct3 w = 2#3) (h : decodeAmoW w = some i) :
    EncodesTo xl i (.word w) := by
  unfold decodeAmoW at h
  split at h
  case h_1 h5 =>
    split at h
    case isTrue h2 => exact .of_some h (.word rfl rfl (encAmo_fields hop h5 h2 h3))
    case isFalse => cases h
  case h_12 => cases h
  all_goals exact .of_some h (.word rfl rfl (encAmo_fields hop ‹_› rfl h3))

theorem decodeAmoD_encodesTo (hop : fOpcode w = 0x2F#7) (h3 : fFunct3 w = 3#3) (h : decodeAmoD xl w = some i) :
    EncodesTo xl i (.word w) := by
  unfold decodeAmoD at h
  split at h
  case h_1 h5 =>
    split at h
    case isTrue h2 => exact .of_only64 h (.word rfl rfl (encAmo_fields hop h5 h2 h3))
    case isFalse => cases h
  case h_12 => cases h
  all_goals exact .of_only64 h (.word rfl rfl (encAmo_fields hop ‹_› rfl h3))

theorem decodeAmo_encodesTo (hop : fOpcode w = 0x2F#7) (h : decodeAmo xl w = some i) : EncodesTo xl i (.word w) := by
  unfold decodeAmo at h
  split at h
  case h_1 h3 => exact decodeAmoW_encodesTo hop h3 h
  case h_2 h3 => exact decodeAmoD_encodesTo hop h3 h
  case h_3 => cases h

theorem decodeFma_encodesTo {single double : FReg → FReg → FReg → FReg → Rm → Instr}
    (hs : fFmt w = 0#2 → EncodesTo xl (single (fRd w) (fRs1 w) (fRs2 w) (fFunct5 w) (fFunct3 w)) (.word w))
    (hd : fFmt w = 1#2 → EncodesTo xl (double (fRd w) (fRs1 w) (fRs2 w) (fFunct5 w) (fFunct3 w)) (.word w))
    (h : decodeFma w single double = some i) : EncodesTo xl i (.word w) := by
  unfold decodeFma at h
  split at h
  case h_1 hf => exact .of_some h (hs hf)
  case h_2 hf => exact .of_some h (hd hf)
  case h_3 => cases h

theorem decodeOpFpS_encodesTo (hop : fOpcode w = 0x53#7) (hf : fFmt w = 0#2) (h : decodeOpFpS xl w = some i) :
    EncodesTo xl i (.word w) := by
  unfold decodeOpFpS at h
  split at h
  -- funct5 alone selects the instruction
  case h_1 | h_2 | h_3 | h_4 => exact .of_some h (.word rfl rfl (encR_fp_fields hop hf ‹_› rfl rfl rfl))
  -- `rs2` selects it too, and funct3 is the rounding mode
  case h_5 | h_15 | h_16 | h_19 | h_20 | h_25 =>
    exact .of_some h (.word rfl rfl (encR_fp_fields hop hf ‹_› ‹fRs2 w = _› rfl rfl))
  case h_17 | h_18 | h_21 | h_22 =>
    exact .of_only64 h (.word rfl rfl (encR_fp_fields hop hf ‹_› ‹fRs2 w = _› rfl rfl))
  -- `rs2` and funct3 select it
  case h_14 | h_23 | h_24 =>
    exact .of_some h (.word rfl rfl (encR_fp_fields hop hf ‹_› ‹fRs2 w = _› ‹fFunct3 w = _› rfl))
  case h_26 => cases h
  -- funct3 selects it
  all_goals exact .of_some h (.word rfl rfl (encR_fp_fields hop hf ‹_› rfl ‹fFunct3 w = _› rfl))

theorem decodeOpFpD_encodesTo (hop : fOpcode w = 0x53#7) (hf : fFmt w = 1#2) (h : decodeOpFpD xl w = some i) :
    EncodesTo xl i (.word w) := by
  unfold decodeOpFpD at h
  split at h
  -- funct5 alone selects the instruction
  case h_1 | h_2 | h_3 | h_4 => exact .of_some h (.word rfl rfl (encR_fp_fields hop hf ‹_› rfl rfl rfl))
  -- `rs2` selects it too, and funct3 is the rounding mode
  case h_5 | h_15 | h_16 | h_17 | h_20 | h_21 =>
    exact .of_some h (.word rfl rfl (encR_fp_fields hop hf ‹_› ‹fRs2 w = _› rfl rfl))
  case h_18 | h_19 | h_22 | h_23 =>
    exact .of_only64 h (.word rfl rfl (encR_fp_fields hop hf ‹_› ‹fRs2 w = _› rfl rfl))
  -- `rs2` and funct3 select it
  case h_14 => exact .of_some h (.word rfl rfl (encR_fp_fields hop hf ‹_› ‹fRs2 w = _› ‹fFunct3 w = _› rfl))
  case h_24 | h_25 =>
    exact .of_only64 h (.word rfl rfl (encR_fp_fields hop hf ‹_› ‹fRs2 w = _› ‹fFunct3 w = _› rfl))
  case h_26 => cases h
  -- funct3 selects it
  all_goals exact .of_some h (.word rfl rfl (encR_fp_fields hop hf ‹_› rfl ‹fFunct3 w = _› rfl))

theorem decodeOpFp_encodesTo (hop : fOpcode w = 0x53#7) (h : decodeOpFp xl w = some i) : EncodesTo xl i (.word w) := by
  unfold decodeOpFp at h
  split at h
  case h_1 hf => exact decodeOpFpS_encodesTo hop hf h
  case h_2 hf => exact decodeOpFpD_encodesTo hop hf h
  case h_3 => cases h

/-- What the 32-bit decoder reads is an instruction of the build, and the word is its encoding. -/
theorem decode32_encodesTo (h : decode32 xl w = some i) : EncodesTo xl i (.word w) := by
  unfold decode32 at h
  split at h
  case h_1 hop => exact decodeLoad_encodesTo hop h
  case h_2 hop => exact decodeLoadFp_encodesTo hop h
  case h_3 hop => exact decodeMiscMem_encodesTo hop h
  case h_4 hop => exact decodeOpImm_encodesTo hop h
  case h_5 hop | h_11 hop => exact .of_some h (.word rfl rfl (encU_fields hop))
  case h_6 hop => exact decodeOpImm32_encodesTo hop h
  case h_7 hop => exact decodeStore_encodesTo hop h
  case h_8 hop => exact decodeStoreFp_encodesTo hop h
  case h_9 hop => exact decodeAmo_encodesTo hop h
  case h_10 hop => exact decodeOp_encodesTo hop h
  case h_12 hop => exact decodeOp32_encodesTo hop h
  case h_13 hop | h_14 hop | h_15 hop | h_16 hop =>
    exact decodeFma_encodesTo (fun hf => .word rfl rfl (encR4_fields hop hf))
      (fun hf => .word rfl rfl (encR4_fields hop hf)) h
  case h_17 hop => exact decodeOpFp_encodesTo hop h
  case h_18 hop => exact decodeBranch_encodesTo hop h
  case h_19 hop =>
    split at h
    case isTrue h3 => exact .of_some h (.word rfl rfl (encI_fields hop h3))
    case isFalse => cases h
  case h_20 hop => exact .of_some h (.word rfl rfl (encJ_fields hop))
  case h_21 hop => exact decodeSystem_encodesTo hop h
  case h_22 => cases h

/-! ### Parcels -/

theorem decodeC0_encodesTo (hq : cQuadrant c = 0#2) : EncodesTo xl (decodeC0 xl c) (.parcel c) := by
  unfold decodeC0
  split
  case h_1 h3 =>
    split
    case isTrue hi => exact .illegal (reserved16_iff.2 (by simp [hq, h3, hi]))
    case isFalse hi => exact .parcel (bne_iff_ne.2 hi) rfl (encCIW_fields hq h3)
  case h_2 h3 | h_6 h3 => exact .parcel rfl rfl (encCLD_fields hq h3)
  case h_3 h3 | h_7 h3 => exact .parcel rfl rfl (encCLW_fields hq h3)
  case h_4 h3 =>
    cases xl
    case rv32 => exact .parcel rfl rfl (encCLW_fields hq h3)
    case rv64 => exact .parcel rfl rfl (encCLD_fields hq h3)
  case h_5 h3 => exact .illegal (reserved16_iff.2 (by simp [hq, h3]))
  case h_8 h0 h1 h2 h3 h4 h5 h6 =>
    have h7 := eq_seven_of_ne h0 h1 h2 h3 h4 h5 h6
    cases xl
    case rv32 => exact .parcel rfl rfl (encCLW_fields hq h7)
    case rv64 => exact .parcel rfl rfl (encCLD_fields hq h7)

theorem decodeCA_encodesTo (hq : cQuadrant c = 1#2) (h3 : cFunct3 c = 4#3) (h10 : c.extractLsb' 10 2 = 3#2) :
    EncodesTo xl (decodeCA xl c) (.parcel c) := by
  unfold decodeCA
  split
  case h_4 h12 h0 h1 h2 =>
    exact .parcel rfl rfl (encCA_fields hq h3 h12 h10 (eq_three_of_ne h0 h1 h2) rfl)
  case h_5 h5 h0 | h_6 h5 h0 =>
    have h12 := eq_one_of_ne h0
    cases xl
    case rv32 => exact .illegal (reserved16_iff.2 (by simp [hq, h3, h10, h12]))
    case rv64 => exact .parcel rfl rfl (encCA_fields hq h3 h12 h10 h5 rfl)
  case h_7 h0 h50 h51 _ _ _ =>
    have h12 := eq_one_of_ne h0
    exact .illegal (reserved16_iff.2 (by cases xl <;> simp [hq, h3, h10, h12, eq_two_or_three_of_ne h50 h51]))
  all_goals exact .parcel rfl rfl (encCA_fields hq h3 ‹_› h10 ‹_› rfl)

theorem decodeCArith_encodesTo (hq : cQuadrant c = 1#2) (h3 : cFunct3 c = 4#3) :
    EncodesTo xl (decodeCArith xl c) (.parcel c) := by
  unfold decodeCArith
  split
  case h_1 h10 | h_2 h10 =>
    split
    case isTrue hs => exact .parcel hs rfl (encCB_fields hq h3 h10)
    case isFalse hs =>
      obtain ⟨hx, h12⟩ := shamtOk_cImm6_eq_false_iff.1 (Bool.eq_false_of_not_eq_true hs)
      exact .illegal (reserved16_iff.2 (by simp [hq, h3, h10, hx, h12]))
  case h_3 h10 => exact .parcel rfl rfl (encCB_fields hq h3 h10)
  case h_4 h0 h1 h2 => exact decodeCA_encodesTo hq h3 (eq_three_of_ne h0 h1 h2)

theorem decodeC1_encodesTo (hq : cQuadrant c = 1#2) : EncodesTo xl (decodeC1 xl c) (.parcel c) := by
  unfold decodeC1
  split
  case h_1 h3 =>
    split
    case isTrue hrd => exact .parcel rfl rfl (encCI_fields hq h3 hrd)
    case isFalse hrd => exact .parcel (bne_iff_ne.2 hrd) rfl (encCI_fields hq h3 rfl)
  case h_2 h3 =>
    cases xl
    case rv32 => exact .parcel rfl rfl (encCJ_fields hq h3)
    case rv64 =>
      show EncodesTo _ (if _ then _ else _) _
      split
      case isTrue hrd => exact .illegal (reserved16_iff.2 (by simp [hq, h3, hrd]))
      case isFalse hrd => exact .parcel (bne_iff_ne.2 hrd) rfl (encCI_fields hq h3 rfl)
  case h_3 h3 => exact .parcel rfl rfl (encCI_fields hq h3 rfl)
  case h_4 h3 =>
    split
    case isTrue hi => exact .illegal (reserved16_iff.2 (by simp [hq, h3, hi]))
    case isFalse hi =>
      split
      case isTrue hrd =>
        exact .parcel (bne_iff_ne.2 (mt cImm16sp_eq_zero_iff.1 hi)) rfl (encC16SP_fields hq h3 hrd)
      case isFalse hrd =>
        exact .parcel (Bool.and_eq_true_iff.2 ⟨bne_iff_ne.2 hrd, bne_iff_ne.2 hi⟩) rfl (encCI_fields hq h3 rfl)
  case h_5 h3 => exact decodeCArith_encodesTo hq h3
  case h_6 h3 => exact .parcel rfl rfl (encCJ_fields hq h3)
  case h_7 h3 => exact .parcel rfl rfl (encCBr_fields hq h3)
  case h_8 h0 h1 h2 h3 h4 h5 h6 =>
    exact .parcel rfl rfl (encCBr_fields hq (eq_seven_of_ne h0 h1 h2 h3 h4 h5 h6))

theorem decodeCR_encodesTo (hq : cQuadrant c = 2#2) (h3 : cFunct3 c = 4#3) :
    EncodesTo xl (decodeCR c) (.parcel c) := by
  unfold decodeCR
  split
  case h_1 h12 =>
    split
    case isTrue h2 =>
      split
      case isTrue hrd => exact .illegal (reserved16_iff.2 (by simp [hq, h3, h12, h2, hrd]))
      case isFalse hrd => exact .parcel (bne_iff_ne.2 hrd) rfl (encCR_fields hq h3 h12 rfl h2 rfl)
    case isFalse h2 => exact .parcel (bne_iff_ne.2 h2) rfl (encCR_fields hq h3 h12 rfl rfl rfl)
  case h_2 h0 =>
    have h12 := eq_one_of_ne h0
    split
    case isTrue h2 =>
      split
      case isTrue hrd => exact .parcel rfl rfl (encCR_fields hq h3 h12 hrd h2 rfl)
      case isFalse hrd => exact .parcel (bne_iff_ne.2 hrd) rfl (encCR_fields hq h3 h12 rfl h2 rfl)
    case isFalse h2 => exact .parcel (bne_iff_ne.2 h2) rfl (encCR_fields hq h3 h12 rfl rfl rfl)

theorem decodeC2_encodesTo (hq : cQuadrant c = 2#2) : EncodesTo xl (decodeC2 xl c) (.parcel c) := by
  unfold decodeC2
  split
  case h_1 h3 =>
    split
    case isTrue hs => exact .parcel hs rfl (encCI_fields hq h3 rfl)
    case isFalse hs =>
      obtain ⟨hx, h12⟩ := shamtOk_cImm6_eq_false_iff.1 (Bool.eq_false_of_not_eq_true hs)
      exact .illegal (reserved16_iff.2 (by simp [hq, h3, hx, h12]))
  case h_2 h3 => exact .parcel rfl rfl (encCLDSP_fields hq h3)
  case h_3 h3 =>
    split
    case isTrue hrd => exact .illegal (reserved16_iff.2 (by simp [hq, h3, hrd]))
    case isFalse hrd => exact .parcel (bne_iff_ne.2 hrd) rfl (encCLWSP_fields hq h3)
  case h_4 h3 =>
    cases xl
    case rv32 => exact .parcel rfl rfl (encCLWSP_fields hq h3)
    case rv64 =>
      show EncodesTo _ (if _ then _ else _) _
      split
      case isTrue hrd => exact .illegal (reserved16_iff.2 (by simp [hq, h3, hrd]))
      case isFalse hrd => exact .parcel (bne_iff_ne.2 hrd) rfl (encCLDSP_fields hq h3)
  case h_5 h3 => exact decodeCR_encodesTo hq h3
  case h_6 h3 => exact .parcel rfl rfl (encCSDSP_fields hq h3)
  case h_7 h3 => exact .parcel rfl rfl (encCSWSP_fields hq h3)
  case h_8 h0 h1 h2 h3 h4 h5 h6 =>
    have h7 := eq_seven_of_ne h0 h1 h2 h3 h4 h5 h6
    cases xl
    case rv32 => exact .parcel rfl rfl (encCSWSP_fields hq h7)
    case rv64 => exact .parcel rfl rfl (encCSDSP_fields hq h7)

/-- What the 16-bit decoder reads is an instruction of the build, and the parcel is its encoding. -/
theorem decode16_encodesTo (h : decode16 xl c = some i) : EncodesTo xl i (.parcel c) := by
  unfold decode16 at h
  split at h
  case h_1 hq => exact .of_some h (decodeC0_encodesTo hq)
  case h_2 hq => exact .of_some h (decodeC1_encodesTo hq)
  case h_3 hq => exact .of_some h (decodeC2_encodesTo hq)
  case h_4 => cases h

/-- Where a word decodes, its length bits choose the decoder that reads it. -/
theorem decodeWord_eq_ok_iff : decodeWord xl w = .ok i ↔
    (w.extractLsb' 0 2 = 3#2 ∧ decode32 xl w = some i)
    ∨ (w.extractLsb' 0 2 ≠ 3#2 ∧ decode16 xl (w.setWidth 16) = some i) := by
  unfold decodeWord
  split
  case isTrue hlow => cases decode32 xl w <;> simp [hlow]
  case isFalse hlow => cases decode16 xl (w.setWidth 16) <;> simp [hlow]

/-- Settles O2: the length bits choose the decoder, and each decoder reads only what encodes to its word or parcel. -/
theorem encodeOfDecode : Obligations.EncodeOfDecode := by
  intro xl w i h
  rcases decodeWord_eq_ok_iff.1 h with ⟨hlow, h32⟩ | ⟨hlow, h16⟩
  · obtain ⟨hwf, he⟩ := decode32_encodesTo h32
    exact ⟨hwf, fun _ => he, fun hne => absurd hlow hne⟩
  · obtain ⟨hwf, he⟩ := decode16_encodesTo h16
    exact ⟨hwf, fun heq => absurd heq hlow, fun _ => by rw [he, BitVec.setWidth_eq_extractLsb' (by omega)]⟩

end Sys2Proof
end

section
/-!
The decoder reads the encoding of every instruction of the build back (30_encoding.md rules R333, R340 to R346, R350 to
R358, R380 to R385): the fields of each format, read back, select the arm of the opcode map that the instruction is.
-/

namespace Sys2Proof

variable {xl : Xlen} {w : BitVec 32} {c : BitVec 16} {i : Instr}

theorem decodeSystem0_of_sfenceVma (h7 : fFunct7 w = 0b0001001#7) (hrd : fRd w = 0#5) :
    decodeSystem0 w = some (.sfenceVma (fRs1 w) (fRs2 w)) := by
  have hne {v : BitVec 32} (hv : fFunct7 v ≠ 0b0001001#7) : w ≠ v := fun h => hv (h ▸ h7)
  rw [decodeSystem0, if_neg (hne (by decide)), if_neg (hne (by decide)), if_neg (hne (by decide)),
    if_neg (hne (by decide)), if_neg (hne (by decide)), if_pos ⟨h7, hrd⟩]

theorem shiftAmount_encSh {f6 shamt rs1 f3 rd op} {f : BitVec 6 → Instr} (h : shamtOk xl shamt = true) :
    shiftAmount xl (encSh f6 shamt rs1 f3 rd op) f = some (f shamt) := by
  rw [shiftAmount, fShamt_encSh, if_pos h]

/-- The 32-bit decoder reads the word of every instruction of the build back as that instruction. Once the fields of
the word are read back, the arm of the opcode map they select is the instruction. -/
theorem decode32_encode (hwf : i.wf xl = true) (he : encode i = .word w) : decode32 xl w = some i := by
  cases i <;> cases he
  case lui | auipc =>
    rw [decode32, fOpcode_encU, fRd_encU, fImmU_encU]
    rfl
  case jal =>
    rw [decode32, fOpcode_encJ, fRd_encJ, fImmJ_encJ]
    rfl
  case jalr =>
    rw [decode32, fOpcode_encI, fFunct3_encI, fRd_encI, fRs1_encI, fImmI_encI]
    rfl
  case beq | bne | blt | bge | bltu | bgeu =>
    rw [decode32, decodeBranch, fOpcode_encB, fFunct3_encB, fRs1_encB, fRs2_encB, fImmB_encB]
    rfl
  case lb | lh | lw | lbu | lhu =>
    rw [decode32, decodeLoad, fOpcode_encI, fFunct3_encI, fRd_encI, fRs1_encI, fImmI_encI]
    rfl
  case lwu | ld =>
    obtain rfl := eq_of_beq hwf
    rw [decode32, decodeLoad, fOpcode_encI, fFunct3_encI, fRd_encI, fRs1_encI, fImmI_encI]
    rfl
  case flw | fld =>
    rw [decode32, decodeLoadFp, fOpcode_encI, fFunct3_encI, fRd_encI, fRs1_encI, fImmI_encI]
    rfl
  case sb | sh | sw =>
    rw [decode32, decodeStore, fOpcode_encS, fFunct3_encS, fRs1_encS, fRs2_encS, fImmS_encS]
    rfl
  case sd =>
    obtain rfl := eq_of_beq hwf
    rw [decode32, decodeStore, fOpcode_encS, fFunct3_encS, fRs1_encS, fRs2_encS, fImmS_encS]
    rfl
  case fsw | fsd =>
    rw [decode32, decodeStoreFp, fOpcode_encS, fFunct3_encS, fRs1_encS, fRs2_encS, fImmS_encS]
    rfl
  case addi | slti | sltiu | xori | ori | andi =>
    rw [decode32, decodeOpImm, fOpcode_encI, fFunct3_encI, fRd_encI, fRs1_encI, fImmI_encI]
    rfl
  case slli | srli | srai =>
    rw [decode32, decodeOpImm, fOpcode_encSh, fFunct3_encSh, fFunct6_encSh, fRd_encSh, fRs1_encSh]
    exact shiftAmount_encSh hwf
  case addiw =>
    obtain rfl := eq_of_beq hwf
    rw [decode32, decodeOpImm32, fOpcode_encI, fFunct3_encI, fRd_encI, fRs1_encI, fImmI_encI]
    rfl
  case slliw | srliw | sraiw =>
    obtain rfl := eq_of_beq hwf
    rw [decode32, decodeOpImm32, fOpcode_encR, fFunct3_encR, fFunct7_encR, fRd_encR, fRs1_encR, fRs2_encR]
    rfl
  case add | sub | sll | slt | sltu | xor | srl | sra | or | and | mul | mulh | mulhsu | mulhu | div | divu | rem
      | remu =>
    rw [decode32, decodeOp, fOpcode_encR, fFunct7_encR, fFunct3_encR, fRd_encR, fRs1_encR, fRs2_encR]
    rfl
  case addw | subw | sllw | srlw | sraw | mulw | divw | divuw | remw | remuw =>
    obtain rfl := eq_of_beq hwf
    rw [decode32, decodeOp32, fOpcode_encR, fFunct7_encR, fFunct3_encR, fRd_encR, fRs1_encR, fRs2_encR]
    rfl
  case fence fm pred succ rs1 rd =>
    obtain ⟨hfm, hpred, hsucc⟩ := fence_sets_encI fm pred succ rs1 0#3 rd 0x0F#7
    rw [decode32, decodeMiscMem, fOpcode_encI, fFunct3_encI, fRd_encI, fRs1_encI, hfm, hpred, hsucc]
    rfl
  case fenceI =>
    rw [decode32, decodeMiscMem, fOpcode_encI, fFunct3_encI, fRd_encI, fRs1_encI, fImmI_encI]
    rfl
  case ecall | ebreak | sret | mret | wfi => rfl
  case sfenceVma =>
    rw [decode32, decodeSystem, fOpcode_encR, fFunct3_encR,
      decodeSystem0_of_sfenceVma (fFunct7_encR ..) (fRd_encR ..), fRs1_encR, fRs2_encR]
    rfl
  case csrrw | csrrs | csrrc | csrrwi | csrrsi | csrrci =>
    rw [decode32, decodeSystem, fOpcode_encI, fFunct3_encI, fRd_encI, fRs1_encI, fImmI_encI]
    rfl
  case lrW | scW | amoswapW | amoaddW | amoxorW | amoandW | amoorW | amominW | amomaxW | amominuW | amomaxuW =>
    rw [decode32, decodeAmo, decodeAmoW, fOpcode_encAmo, fFunct3_encAmo, fFunct5_encAmo, fRd_encAmo, fRs1_encAmo,
      fRs2_encAmo, fAq_encAmo, fRl_encAmo]
    rfl
  case lrD | scD | amoswapD | amoaddD | amoxorD | amoandD | amoorD | amominD | amomaxD | amominuD | amomaxuD =>
    obtain rfl := eq_of_beq hwf
    rw [decode32, decodeAmo, decodeAmoD, fOpcode_encAmo, fFunct3_encAmo, fFunct5_encAmo, fRd_encAmo, fRs1_encAmo,
      fRs2_encAmo, fAq_encAmo, fRl_encAmo]
    rfl
  case fmaddS | fmsubS | fnmsubS | fnmaddS | fmaddD | fmsubD | fnmsubD | fnmaddD =>
    simp only [decode32, decodeFma, fOpcode_encR4, fFmt_encR4, fRd_encR4, fRs1_encR4, fRs2_encR4, fFunct5_encR4,
      fFunct3_encR4]
  case faddS | fsubS | fmulS | fdivS | fsqrtS | fsgnjS | fsgnjnS | fsgnjxS | fminS | fmaxS | feqS | fltS | fleS
      | fclassS | fcvtWS | fcvtWuS | fcvtSW | fcvtSWu | fmvXW | fmvWX | fcvtSD =>
    rw [decode32, decodeOpFp, decodeOpFpS, fOpcode_encR, fFmt_encR, fFunct5_encR, fFunct3_encR, fRd_encR, fRs1_encR,
      fRs2_encR]
    rfl
  case fcvtLS | fcvtLuS | fcvtSL | fcvtSLu =>
    obtain rfl := eq_of_beq hwf
    rw [decode32, decodeOpFp, decodeOpFpS, fOpcode_encR, fFmt_encR, fFunct5_encR, fFunct3_encR, fRd_encR, fRs1_encR,
      fRs2_encR]
    rfl
  case faddD | fsubD | fmulD | fdivD | fsqrtD | fsgnjD | fsgnjnD | fsgnjxD | fminD | fmaxD | feqD | fltD | fleD
      | fclassD | fcvtDS | fcvtWD | fcvtWuD | fcvtDW | fcvtDWu =>
    rw [decode32, decodeOpFp, decodeOpFpD, fOpcode_encR, fFmt_encR, fFunct5_encR, fFunct3_encR, fRd_encR, fRs1_encR,
      fRs2_encR]
    rfl
  case fcvtLD | fcvtLuD | fcvtDL | fcvtDLu | fmvXD | fmvDX =>
    obtain rfl := eq_of_beq hwf
    rw [decode32, decodeOpFp, decodeOpFpD, fOpcode_encR, fFmt_encR, fFunct5_encR, fFunct3_encR, fRd_encR, fRs1_encR,
      fRs2_encR]
    rfl

/-- Every opcode of the 32-bit map ends in 11. -/
theorem low2_of_decode32 (h : decode32 xl w = some i) : w.extractLsb' 0 2 = 3#2 := by
  have hlow : w.extractLsb' 0 2 = (fOpcode w).extractLsb' 0 2 := by
    rw [fOpcode, BitVec.extractLsb'_extractLsb'_of_le (by omega)]
  unfold decode32 at h
  split at h
  case h_22 => cases h
  all_goals rw [hlow, ‹fOpcode w = _›]; rfl

/-- The 16-bit decoder reads the first three quadrants only. -/
theorem cQuadrant_ne_of_decode16 (h : decode16 xl c = some i) : cQuadrant c ≠ 3#2 := by
  unfold decode16 at h
  split at h
  case h_4 => cases h
  all_goals rw [‹cQuadrant c = _›]; decide

theorem decodeCA_eq_cIllegal (h12 : c.extractLsb' 12 1 = 1#1)
    (h : xl = .rv32 ∨ c.extractLsb' 5 2 = 2#2 ∨ c.extractLsb' 5 2 = 3#2) : decodeCA xl c = .cIllegal c := by
  rcases h with rfl | h5 | h5
  · unfold decodeCA
    split <;> simp_all
  · rw [decodeCA, h12, h5]
    rfl
  · rw [decodeCA, h12, h5]
    rfl

/-- The 16-bit decoder reads a reserved parcel as such, row by row of the table. -/
theorem decode16_of_reserved16 (h : reserved16 xl c = true) : decode16 xl c = some (.cIllegal c) := by
  have hshift (hx : xl = .rv32) (h12 : c.extractLsb' 12 1 = 1#1) : ¬ shamtOk xl (cImm6 c) = true :=
    Bool.not_eq_true _ ▸ shamtOk_cImm6_eq_false_iff.2 ⟨hx, h12⟩
  rcases reserved16_iff.1 h with ⟨h3, hi, -, hq⟩ | ⟨h3, hi, hq⟩ | ⟨h3, hq⟩ | ⟨rfl, h3, hrd, hq⟩ | ⟨h3, hi, hq⟩
    | ⟨hx, h3, h12, h10, hq⟩ | ⟨hx, h3, h12, h10, hq⟩ | ⟨hx, h3, h12, h10, hq⟩ | ⟨-, h3, h12, h10, h5, hq⟩
    | ⟨hx, h3, h12, hq⟩ | ⟨h3, hrd, hq⟩ | ⟨rfl, h3, hrd, hq⟩ | ⟨h3, h12, hrd, h2, hq⟩
  · rw [decode16, decodeC0.eq_def, hq, h3]
    exact congrArg some (if_pos hi)
  · rw [decode16, decodeC0.eq_def, hq, h3]
    exact congrArg some (if_pos hi)
  · rw [decode16, decodeC0.eq_def, hq, h3]
    rfl
  · rw [decode16, decodeC1.eq_def, hq, h3]
    exact congrArg some (if_pos hrd)
  · rw [decode16, decodeC1.eq_def, hq, h3]
    exact congrArg some (if_pos hi)
  · rw [decode16, decodeC1.eq_def, decodeCArith, hq, h3, h10]
    exact congrArg some (if_neg (hshift hx h12))
  · rw [decode16, decodeC1.eq_def, decodeCArith, hq, h3, h10]
    exact congrArg some (if_neg (hshift hx h12))
  · rw [decode16, decodeC1.eq_def, decodeCArith, hq, h3, h10]
    exact congrArg some (decodeCA_eq_cIllegal h12 (.inl hx))
  · rw [decode16, decodeC1.eq_def, decodeCArith, hq, h3, h10]
    exact congrArg some (decodeCA_eq_cIllegal h12 (.inr h5))
  · rw [decode16, decodeC2.eq_def, hq, h3]
    exact congrArg some (if_neg (hshift hx h12))
  · rw [decode16, decodeC2.eq_def, hq, h3]
    exact congrArg some (if_pos hrd)
  · rw [decode16, decodeC2.eq_def, hq, h3]
    exact congrArg some (if_pos hrd)
  · rw [decode16, decodeC2.eq_def, decodeCR, hq, h3, h12]
    exact congrArg some ((if_pos h2).trans (if_pos hrd))

/-- The 16-bit decoder reads the parcel of every instruction of the build back as that instruction. -/
theorem decode16_encode (hwf : i.wf xl = true) (he : encode i = .parcel c) : decode16 xl c = some i := by
  cases i <;> cases he
  case cIllegal => exact decode16_of_reserved16 hwf
  case cAddi4spn =>
    rw [decode16, decodeC0.eq_def, cQuadrant_encCIW, cFunct3_encCIW, cLow3_encCIW, cImm4spn_encCIW]
    exact congrArg some (if_neg (bne_iff_ne.1 hwf))
  case cFld | cFsd =>
    rw [decode16, decodeC0.eq_def, cQuadrant_encCLD, cFunct3_encCLD, cLow3_encCLD, cHigh3_encCLD, cImmLd_encCLD]
    rfl
  case cLw | cSw =>
    rw [decode16, decodeC0.eq_def, cQuadrant_encCLW, cFunct3_encCLW, cLow3_encCLW, cHigh3_encCLW, cImmLw_encCLW]
    rfl
  case cFlw | cFsw =>
    obtain rfl := eq_of_beq hwf
    rw [decode16, decodeC0.eq_def, cQuadrant_encCLW, cFunct3_encCLW, cLow3_encCLW, cHigh3_encCLW, cImmLw_encCLW]
    rfl
  case cLd | cSd =>
    obtain rfl := eq_of_beq hwf
    rw [decode16, decodeC0.eq_def, cQuadrant_encCLD, cFunct3_encCLD, cLow3_encCLD, cHigh3_encCLD, cImmLd_encCLD]
    rfl
  case cNop | cLi =>
    rw [decode16, decodeC1.eq_def, cQuadrant_encCI, cFunct3_encCI, cRd_encCI, cImm6_encCI]
    rfl
  case cAddi =>
    rw [decode16, decodeC1.eq_def, cQuadrant_encCI, cFunct3_encCI, cRd_encCI, cImm6_encCI]
    exact congrArg some (if_neg (bne_iff_ne.1 hwf))
  case cAddiw =>
    obtain ⟨hx, hrd⟩ := Bool.and_eq_true_iff.1 hwf
    obtain rfl := eq_of_beq hx
    rw [decode16, decodeC1.eq_def, cQuadrant_encCI, cFunct3_encCI, cRd_encCI, cImm6_encCI]
    exact congrArg some (if_neg (bne_iff_ne.1 hrd))
  case cLui =>
    obtain ⟨hrd, hi⟩ := Bool.and_eq_true_iff.1 hwf
    rw [decode16, decodeC1.eq_def, cQuadrant_encCI, cFunct3_encCI, cRd_encCI, cImm6_encCI]
    exact congrArg some ((if_neg (bne_iff_ne.1 hi)).trans (if_neg (bne_iff_ne.1 hrd)))
  case cAddi16sp imm =>
    have hi : cImm6 (encC16SP 3#3 imm 1#2) ≠ 0#6 := by
      rw [Ne, ← cImm16sp_eq_zero_iff, cImm16sp_encC16SP]
      exact bne_iff_ne.1 hwf
    rw [decode16, decodeC1.eq_def, cQuadrant_encC16SP, cFunct3_encC16SP, cRd_encC16SP, cImm16sp_encC16SP]
    exact congrArg some ((if_neg hi).trans (if_pos rfl))
  case cJ =>
    rw [decode16, decodeC1.eq_def, cQuadrant_encCJ, cFunct3_encCJ, cImmJ_encCJ]
    rfl
  case cJal =>
    obtain rfl := eq_of_beq hwf
    rw [decode16, decodeC1.eq_def, cQuadrant_encCJ, cFunct3_encCJ, cImmJ_encCJ]
    rfl
  case cBeqz | cBnez =>
    rw [decode16, decodeC1.eq_def, cQuadrant_encCBr, cFunct3_encCBr, cHigh3_encCBr, cImmB_encCBr]
    rfl
  case cSrli | cSrai =>
    rw [decode16, decodeC1.eq_def, decodeCArith, cQuadrant_encCB, cFunct3_encCB, funct2_encCB, cHigh3_encCB,
      cImm6_encCB]
    exact congrArg some (if_pos hwf)
  case cAndi =>
    rw [decode16, decodeC1.eq_def, decodeCArith, cQuadrant_encCB, cFunct3_encCB, funct2_encCB, cHigh3_encCB,
      cImm6_encCB]
    rfl
  case cSub | cXor | cOr | cAnd =>
    rw [decode16, decodeC1.eq_def, decodeCArith, decodeCA, cQuadrant_encCA, cFunct3_encCA, funct1_encCA,
      funct2_encCA, op2_encCA, cHigh3_encCA, cLow3_encCA]
    rfl
  case cSubw | cAddw =>
    obtain rfl := eq_of_beq hwf
    rw [decode16, decodeC1.eq_def, decodeCArith, decodeCA, cQuadrant_encCA, cFunct3_encCA, funct1_encCA,
      funct2_encCA, op2_encCA, cHigh3_encCA, cLow3_encCA]
    rfl
  case cSlli =>
    rw [decode16, decodeC2.eq_def, cQuadrant_encCI, cFunct3_encCI, cRd_encCI, cImm6_encCI]
    exact congrArg some (if_pos hwf)
  case cFldsp =>
    rw [decode16, decodeC2.eq_def, cQuadrant_encCLDSP, cFunct3_encCLDSP, cRd_encCLDSP, cImmLdsp_encCLDSP]
    rfl
  case cLwsp =>
    rw [decode16, decodeC2.eq_def, cQuadrant_encCLWSP, cFunct3_encCLWSP, cRd_encCLWSP, cImmLwsp_encCLWSP]
    exact congrArg some (if_neg (bne_iff_ne.1 hwf))
  case cFlwsp =>
    obtain rfl := eq_of_beq hwf
    rw [decode16, decodeC2.eq_def, cQuadrant_encCLWSP, cFunct3_encCLWSP, cRd_encCLWSP, cImmLwsp_encCLWSP]
    rfl
  case cLdsp =>
    obtain ⟨hx, hrd⟩ := Bool.and_eq_true_iff.1 hwf
    obtain rfl := eq_of_beq hx
    rw [decode16, decodeC2.eq_def, cQuadrant_encCLDSP, cFunct3_encCLDSP, cRd_encCLDSP, cImmLdsp_encCLDSP]
    exact congrArg some (if_neg (bne_iff_ne.1 hrd))
  case cJr | cJalr =>
    rw [decode16, decodeC2.eq_def, decodeCR, cQuadrant_encCR, cFunct3_encCR, funct1_encCR, cRd_encCR, cRs2_encCR]
    exact congrArg some ((if_pos rfl).trans (if_neg (bne_iff_ne.1 hwf)))
  case cMv | cAdd =>
    rw [decode16, decodeC2.eq_def, decodeCR, cQuadrant_encCR, cFunct3_encCR, funct1_encCR, cRd_encCR, cRs2_encCR]
    exact congrArg some (if_neg (bne_iff_ne.1 hwf))
  case cEbreak => rfl
  case cFsdsp =>
    rw [decode16, decodeC2.eq_def, cQuadrant_encCSDSP, cFunct3_encCSDSP, cRs2_encCSDSP, cImmSdsp_encCSDSP]
    rfl
  case cSdsp =>
    obtain rfl := eq_of_beq hwf
    rw [decode16, decodeC2.eq_def, cQuadrant_encCSDSP, cFunct3_encCSDSP, cRs2_encCSDSP, cImmSdsp_encCSDSP]
    rfl
  case cSwsp =>
    rw [decode16, decodeC2.eq_def, cQuadrant_encCSWSP, cFunct3_encCSWSP, cRs2_encCSWSP, cImmSwsp_encCSWSP]
    rfl
  case cFswsp =>
    obtain rfl := eq_of_beq hwf
    rw [decode16, decodeC2.eq_def, cQuadrant_encCSWSP, cFunct3_encCSWSP, cRs2_encCSWSP, cImmSwsp_encCSWSP]
    rfl

/-- Settles O1: the decoder that the length bits of the encoding choose reads the instruction back. -/
theorem decodeOfEncode : Obligations.DecodeOfEncode := by
  intro xl i hwf
  rw [decodeWord_eq_ok_iff]
  cases he : encode i with
  | word w =>
    have h := decode32_encode hwf he
    exact .inl ⟨low2_of_decode32 h, h⟩
  | parcel c =>
    have h := decode16_encode hwf he
    have hlow : (c.setWidth 32).extractLsb' 0 2 = cQuadrant c := BitVec.extractLsb'_setWidth_of_le (by omega)
    have hc : (c.setWidth 32).setWidth 16 = c := BitVec.setWidth_setWidth_of_le _ (by omega)
    exact .inr ⟨hlow ▸ cQuadrant_ne_of_decode16 h, hc.symm ▸ h⟩

end Sys2Proof
end

section
/-!
What no instruction reaches (40_step.md rules R428, R432, R433): the build, `pc`, the uptime, the poll counter and the
draws; and what only EBREAK or only a CSR instruction reaches: the run-state with the halt registers, the deadline.
-/

namespace Sys2Proof.Machine

variable {i : Instr} {s t : State}

/-- Nothing changed of the machine's own parts: build, `pc`, run-state, halt registers, poll counter, uptime, deadline
and draws. -/
structure SameMachine (s t : State) : Prop where
  cfg           : t.cfg = s.cfg
  pc            : t.pc = s.pc
  runState      : t.runState = s.runState
  haltCode      : t.haltCode = s.haltCode
  haltPc        : t.haltPc = s.haltPc
  pollCounter   : t.pollCounter = s.pollCounter
  uptime        : t.uptime = s.uptime
  timerDeadline : t.timerDeadline = s.timerDeadline
  env           : t.env = s.env
  draws         : t.draws = s.draws
  former        : t.former = s.former

theorem SameMachine.refl : SameMachine s s := ⟨rfl, rfl, rfl, rfl, rfl, rfl, rfl, rfl, rfl, rfl, rfl⟩

theorem Plain.sameMachine (h : Plain s t) : SameMachine s t := by
  obtain ⟨x, f, npc, fcsr, mstatus, mem, resv, rfl⟩ := h.frame
  constructor <;> rfl

theorem SameMachine.deliver (h : SameMachine s t) (e : Exn) : SameMachine s (deliver e t) := by
  constructor <;> simp [h.cfg, h.pc, h.runState, h.haltCode, h.haltPc, h.pollCounter, h.uptime, h.timerDeadline, h.env,
    h.draws, h.former]

theorem SameMachine.writeX (h : SameMachine s t) (rd : Reg) (v : Word) : SameMachine s (writeX rd v t) := by
  constructor <;> simp [h.cfg, h.pc, h.runState, h.haltCode, h.haltPc, h.pollCounter, h.uptime, h.timerDeadline, h.env,
    h.draws, h.former]

/-! ### The shared operations -/

theorem loadX_sameMachine (rd : Reg) (ea : Word) (n : Nat) (ext : Ext) (s : State) :
    SameMachine s (loadX rd ea n ext s) := by
  rcases loadX_cases rd ea n ext s with ⟨e, h⟩ | ⟨v, h⟩ <;> rw [h]
  · exact .deliver .refl e
  · exact .writeX .refl rd v

theorem storeBytes_sameMachine (ea : Word) (n : Nat) (v : Word) (s : State) :
    SameMachine s (storeBytes ea n v s) := by
  rcases storeBytes_cases ea n v s with ⟨e, h⟩ | h | ⟨pa, -, h⟩ <;> rw [h]
  · exact .deliver .refl e
  · exact .refl
  · exact (Plain.refl.mem pa n v).sameMachine

theorem loadF_sameMachine (bits : Word) (fmt : Fmt) (rd : FReg) (ea : Word) (s : State) :
    SameMachine s (loadF bits fmt rd ea s) := by
  rcases loadF_cases bits fmt rd ea s with ⟨e, h⟩ | ⟨v, -, h⟩ <;> rw [h]
  · exact .deliver .refl e
  · exact (Plain.refl.writeFDirty rd v).sameMachine

theorem storeF_sameMachine (bits : Word) (fmt : Fmt) (rs2 : FReg) (ea : Word) (s : State) :
    SameMachine s (storeF bits fmt rs2 ea s) := by
  rcases storeF_cases bits fmt rs2 ea s with ⟨-, h⟩ | ⟨-, h⟩ <;> rw [h]
  · exact .deliver .refl _
  · exact storeBytes_sameMachine _ _ _ s

theorem loadReserved_sameMachine (n : Nat) (rd rs1 : Reg) (s : State) : SameMachine s (loadReserved n rd rs1 s) := by
  rcases loadReserved_cases n rd rs1 s with ⟨e, h⟩ | ⟨pa, v, w, h⟩ <;> rw [h]
  · exact .deliver .refl e
  · exact ((Plain.refl.resv _ keysSorted_mapInsert).x rd w).sameMachine

theorem storeConditional_sameMachine (n : Nat) (rd rs1 rs2 : Reg) (s : State) :
    SameMachine s (storeConditional n rd rs1 rs2 s) := by
  have hp : ∀ pa, Plain s { s with resv := mapErase pa s.resv } := fun pa => Plain.refl.resv _ keysSorted_mapErase
  rcases storeConditional_cases n rd rs1 rs2 s with ⟨e, h⟩ | h | ⟨pa, -, ⟨e, h⟩ | ⟨w, h⟩ | ⟨w, v, h⟩⟩ <;> rw [h]
  · exact .deliver .refl e
  · exact ((Plain.refl.resv [] fun _ => .nil).x rd 1).sameMachine
  · exact (hp pa).sameMachine.deliver e
  · exact ((hp pa).x rd w).sameMachine
  · exact (((hp pa).mem pa n v).x rd w).sameMachine

theorem amo_sameMachine (kind : AtomicKind) (n : Nat) (rd rs1 rs2 : Reg) (s : State) :
    SameMachine s (amo kind n rd rs1 rs2 s) := by
  rcases amo_cases kind n rd rs1 rs2 s with ⟨e, h⟩ | ⟨w, h⟩ | ⟨pa, w, v, -, h⟩ <;> rw [h]
  · exact .deliver .refl e
  · exact .writeX .refl rd w
  · exact ((Plain.refl.mem pa n v).x rd w).sameMachine

theorem fpEnabled_sameMachine (bits : Word) {k : State → State} (hk : Plain s (k s)) :
    SameMachine s (fpEnabled bits s k) := by
  unfold fpEnabled
  split
  · exact .deliver .refl _
  · exact hk.sameMachine

theorem fpRounded_sameMachine (bits : Word) (rm : Rm) {k : Rm → State → State} (hk : ∀ m, Plain s (k m s)) :
    SameMachine s (fpRounded bits rm s k) := by
  rcases fpRounded_cases bits rm s k with h | ⟨m, -, -, h⟩ <;> rw [h]
  · exact .deliver .refl _
  · exact (hk m).sameMachine

/-! ### The instructions -/

/-- An instruction that is neither EBREAK nor C.EBREAK nor a CSR instruction leaves all of the machine's own parts. -/
theorem exec_sameMachine (hb : i ≠ .ebreak) (hc : i ≠ .cEbreak) (hcsr : isCsrInstr i = false)
    (h : exec i s = .next t) : SameMachine s t := by
  cases i
  case csrrw | csrrs | csrrc | csrrwi | csrrsi | csrrci => cases hcsr
  case ebreak => exact absurd rfl hb
  case cEbreak => exact absurd rfl hc
  case lb | lh | lw | lbu | lhu | lwu | ld | cLw | cLd | cLwsp | cLdsp => cases h; exact loadX_sameMachine _ _ _ _ s
  case sb | sh | sw | sd | cSw | cSd | cSwsp | cSdsp => cases h; exact storeBytes_sameMachine _ _ _ s
  case flw | fld | cFlw | cFld | cFlwsp | cFldsp => cases h; exact loadF_sameMachine _ _ _ _ s
  case fsw | fsd | cFsw | cFsd | cFswsp | cFsdsp => cases h; exact storeF_sameMachine _ _ _ _ s
  case lrW | lrD => cases h; exact loadReserved_sameMachine _ _ _ s
  case scW | scD => cases h; exact storeConditional_sameMachine _ _ _ _ s
  case amoswapW | amoaddW | amoxorW | amoandW | amoorW | amominW | amomaxW | amominuW | amomaxuW | amoswapD | amoaddD
      | amoxorD | amoandD | amoorD | amominD | amomaxD | amominuD | amomaxuD =>
    cases h; exact amo_sameMachine _ _ _ _ _ s
  case faddS | fsubS | fmulS | fdivS | fsqrtS | fmaddS | fmsubS | fnmsubS | fnmaddS | faddD | fsubD | fmulD | fdivD |
      fsqrtD | fmaddD | fmsubD | fnmsubD | fnmaddD | fcvtSW | fcvtSWu | fcvtSL | fcvtSLu | fcvtDW | fcvtDWu | fcvtDL |
      fcvtDLu | fcvtSD | fcvtDS =>
    cases h; exact fpRounded_sameMachine _ _ fun _ => Plain.refl.writeFResult _ _ _
  case fcvtWS | fcvtWuS | fcvtLS | fcvtLuS | fcvtWD | fcvtWuD | fcvtLD | fcvtLuD =>
    cases h; exact fpRounded_sameMachine _ _ fun _ => Plain.refl.writeXResult _ _ _
  case fsgnjS | fsgnjnS | fsgnjxS | fsgnjD | fsgnjnD | fsgnjxD | fmvWX | fmvDX =>
    cases h; exact fpEnabled_sameMachine _ (Plain.refl.writeFDirty _ _)
  case fminS | fmaxS | fminD | fmaxD => cases h; exact fpEnabled_sameMachine _ (Plain.refl.writeFResult _ _ _)
  case feqS | fltS | fleS | feqD | fltD | fleD =>
    cases h; exact fpEnabled_sameMachine _ (Plain.refl.writeXResult _ _ _)
  case fclassS | fclassD | fmvXW | fmvXD => cases h; exact fpEnabled_sameMachine _ (.x _ _ .refl)
  case ecall | cIllegal => cases h; exact .deliver .refl _
  case sret | sfenceVma =>
    cases h
    split
    · exact .deliver .refl _
    · constructor <;> rfl
  case mret =>
    cases h
    split
    · constructor <;> rfl
    · exact .deliver .refl _
  case beq | bne | blt | bge | bltu | bgeu | cBeqz | cBnez => cases h; exact (Plain.refl.branch _ _).sameMachine
  case fence | wfi | fenceI | cJ => cases h; constructor <;> rfl
  case jal | cJal => cases h; exact ((Plain.refl.jumpRel _).x _ _).sameMachine
  case jalr | cJr | cJalr => cases h; exact ((Plain.refl.jumpTo _).x _ _).sameMachine
  -- every other instruction writes `x[rd]` and does nothing else
  all_goals cases h; exact .writeX .refl _ _

/-- A CSR write reaches none of the machine's own parts but the deadline (10_state.md rule R100). -/
theorem csrWrite_sameMachine (c : Csr) (v : Word) (s : State) :
    SameMachine { s with timerDeadline := (csrWrite c v s).timerDeadline } (csrWrite c v s) := by
  cases c
  case stimecmp | stimecmph =>
    rcases stimecmpCallback_cases _ with ⟨-, e⟩ | ⟨-, e⟩ <;> rw [csrWrite, e] <;> constructor <;> rfl
  all_goals constructor <;> rfl

theorem csrOp_sameMachine (bits : Word) (rd : Reg) (a : CsrAddr) (writes : Bool) (new : Word → Word) (s : State) :
    SameMachine { s with timerDeadline := (csrOp bits rd a writes new s).timerDeadline }
      (csrOp bits rd a writes new s) := by
  rcases csrOp_cases bits rd a writes new s with h | ⟨c, -, -, h⟩ <;> rw [h]
  · simpa using SameMachine.refl.deliver (s := s) ⟨.illegalInstr, bits⟩
  · cases writes
    · simpa using SameMachine.refl.writeX (s := s) rd _
    · simpa using (csrWrite_sameMachine c _ s).writeX rd _

/-- A CSR instruction leaves all of the machine's own parts but the deadline. -/
theorem exec_csr_sameMachine (hcsr : isCsrInstr i = true) (h : exec i s = .next t) :
    SameMachine { s with timerDeadline := t.timerDeadline } t := by
  cases i
  case csrrw | csrrs | csrrc | csrrwi | csrrsi | csrrci => cases h; exact csrOp_sameMachine _ _ _ _ _ s
  all_goals cases hcsr

/-- EBREAK leaves all of the machine's own parts but the run-state and the halt registers. -/
theorem breakOrHalt_sameMachine (s : State) :
    SameMachine { s with runState := (breakOrHalt s).runState, haltCode := (breakOrHalt s).haltCode
                         haltPc := (breakOrHalt s).haltPc } (breakOrHalt s) := by
  rcases breakOrHalt_cases s with ⟨-, h⟩ | ⟨-, h⟩ <;> rw [h]
  · constructor <;> rfl
  · simpa using SameMachine.refl.deliver (s := s) ⟨.breakpoint, s.pc⟩

/-- Settles O12: EBREAK keeps all but the run-state, a CSR instruction all but the deadline, the others keep all. -/
theorem execKeepsMachine : Obligations.ExecKeepsMachine := by
  intro i s
  obtain ⟨t, ht, -⟩ := exec_effect i s
  refine ⟨t, ht, ?_⟩
  by_cases hb : i = .ebreak ∨ i = .cEbreak
  · have hm : t = breakOrHalt s := by rcases hb with rfl | rfl <;> cases ht <;> rfl
    have h : SameMachine _ t := hm ▸ breakOrHalt_sameMachine s
    exact ⟨h.cfg, h.pc, h.uptime, h.pollCounter, h.draws, h.env, h.former, fun h1 h2 => absurd hb (not_or.2 ⟨h1, h2⟩),
      fun _ => h.timerDeadline⟩
  · obtain ⟨h1, h2⟩ := not_or.1 hb
    cases hcsr : isCsrInstr i
    · have h := exec_sameMachine h1 h2 hcsr ht
      exact ⟨h.cfg, h.pc, h.uptime, h.pollCounter, h.draws, h.env, h.former,
        fun _ _ => ⟨h.runState, h.haltCode, h.haltPc⟩, fun _ => h.timerDeadline⟩
    · have h := exec_csr_sameMachine hcsr ht
      exact ⟨h.cfg, h.pc, h.uptime, h.pollCounter, h.draws, h.env, h.former,
        fun _ _ => ⟨h.runState, h.haltCode, h.haltPc⟩, fun hf => nomatch hf⟩

end Sys2Proof.Machine
end

section
/-!
The step (40_step.md rules R420 to R433): what it runs where its poll point takes no interrupt, what its front half
gives in each case, the icache fill and the retire.
-/

namespace Sys2Proof.Machine

variable {s : State}

/-! ### The step and what follows the handler -/

/-- A Running hart whose poll point takes no interrupt runs an instruction in the state after what arrived. -/
theorem step_eq_runInstr (hrun : s.runState = .running) (hscan : interruptScan (beginStep (nextInput s) s) = none) :
    step s = runInstr (nextInput s) (duringStep (nextInput s) (beginStep (nextInput s) s)) := by
  simp [step, stepWith, hrun, cycle, pollInterrupt, hscan]

/-- A hart that is not Running refuses the step (rule R433). -/
theorem step_refused (hrun : s.runState ≠ .running) : step s = .refused .hartNotRunning := if_neg hrun

theorem runInstr_of_trap {inp : StepInput} {e : Exn} (h : fetchDecode inp.useIcache s = .trap e) :
    runInstr inp s = .next (retire false (deliver e s)) := by
  rw [runInstr, h]

theorem runInstr_of_instr {inp : StepInput} {i : Instr} {line : IcacheLine} {hit : Bool}
    (h : fetchDecode inp.useIcache s = .instr i line hit) :
    runInstr inp s = finish i line hit inp.fillAfterTrap (exec i { s with npc := linkAddr line.len s }) := by
  rw [runInstr, h]
  rfl

/-- Every step of a Running hart answers a next state: an exception is one, and every instruction answers one. -/
theorem runInstr_next (inp : StepInput) (s : State) : ∃ t, runInstr inp s = .next t := by
  cases h : fetchDecode inp.useIcache s with
  | trap e => exact ⟨_, runInstr_of_trap h⟩
  | instr i line hit =>
    obtain ⟨u, hu, -⟩ := exec_effect i { s with npc := linkAddr line.len s }
    exact ⟨_, by rw [runInstr_of_instr h, hu]; rfl⟩

theorem step_next (hrun : s.runState = .running) : ∃ t, step s = .next t := by
  cases hscan : interruptScan (beginStep (nextInput s) s) with
  | none => exact step_eq_runInstr hrun hscan ▸ runInstr_next _ _
  | some d => exact ⟨_, by simp [step, stepWith, hrun, cycle, pollInterrupt, hscan]; rfl⟩

theorem isReserved_eq_false_iff {i : Instr} : isReserved i = false ↔ ∀ w, i ≠ .cIllegal w := by
  cases i <;> simp [isReserved]

/-- The handler of a miss fills its line: not for a reserved encoding, and after a trap only where the draw says so. -/
def FillsIcache (i : Instr) (hit fillAfterTrap : Bool) (t : State) : Prop :=
  t.cfg.icacheEnabled = true ∧ hit = false ∧ (∀ w, i ≠ .cIllegal w) ∧ (t.trapPending = false ∨ fillAfterTrap = true)

/-- The fill reaches the icache alone: the line at `pc`, or nothing (rule R427). -/
theorem fillIcache_cases (i : Instr) (line : IcacheLine) (hit fillAfterTrap : Bool) (t : State) :
    (FillsIcache i hit fillAfterTrap t
      ∧ fillIcache i line hit fillAfterTrap t = { t with icache := mapInsert t.pc.toNat line t.icache })
    ∨ (¬FillsIcache i hit fillAfterTrap t ∧ fillIcache i line hit fillAfterTrap t = t) := by
  have hiff : (t.cfg.icacheEnabled && !hit && !isReserved i && (!t.trapPending || fillAfterTrap)) = true
      ↔ FillsIcache i hit fillAfterTrap t := by
    simp [FillsIcache, ← isReserved_eq_false_iff, and_assoc]
  unfold fillIcache
  split
  · exact .inl ⟨hiff.1 ‹_›, rfl⟩
  · exact .inr ⟨fun h => ‹¬_› (hiff.2 h), rfl⟩

/-! ### The front half -/

theorem bit_low_eq_true_iff (v : Word) : bit v 0 = true ↔ v.toNat % 2 = 1 := by
  simp [bit, BitVec.getLsbD, Nat.testBit_zero]

theorem bit_low_eq_false_iff (v : Word) : bit v 0 = false ↔ v.toNat % 2 = 0 := by
  rw [← Bool.not_eq_true, bit_low_eq_true_iff]; omega

theorem decodeLine_ok {xl : Xlen} {line : IcacheLine} {i : Instr} (h : decodeWord xl line.word = .ok i) (hit : Bool) :
    decodeLine xl line hit = .instr i line hit := by
  rw [decodeLine, h]

theorem decodeLine_error {xl : Xlen} {line : IcacheLine} {d : DecodeError} (h : decodeWord xl line.word = .error d)
    (hit : Bool) : decodeLine xl line hit = .trap ⟨.illegalInstr, line.word.setWidth 64⟩ := by
  rw [decodeLine, h]

theorem fetchDecode_odd (h : s.pc.toNat % 2 = 1) (use : Bool) :
    fetchDecode use s = .trap ⟨.instrAddrMisaligned, s.pc⟩ := if_pos ((bit_low_eq_true_iff _).2 h)

/-- A line present at `pc` that the draw uses is decoded without a fetch (rule R422). -/
theorem fetchDecode_hit {use : Bool} (huse : use = true) (hpc : s.pc.toNat % 2 = 0)
    (hen : s.cfg.icacheEnabled = true) {line : IcacheLine} (hl : mapLookup s.pc.toNat s.icache = some line) :
    fetchDecode use s = decodeLine s.cfg.xlen line true := by
  have hhit : icacheHit use s = some line := by simp [icacheHit, hen, hl, huse]
  rw [fetchDecode, (bit_low_eq_false_iff _).2 hpc, if_neg Bool.false_ne_true, hhit]

/-- No icache line hides the bytes at `pc`: there is none, or the draw does not use it. -/
def NoLine (use : Bool) (s : State) : Prop :=
  s.cfg.icacheEnabled = false ∨ mapLookup s.pc.toNat s.icache = none ∨ use = false

theorem NoLine.icacheHit_eq {use : Bool} (h : NoLine use s) : icacheHit use s = none := by
  unfold icacheHit
  rcases h with h | h | h
  · simp [h]
  · simp [h]
  · subst h
    cases mapLookup s.pc.toNat s.icache <;> simp

theorem fetchDecode_miss_error {use : Bool} (hpc : s.pc.toNat % 2 = 0) (hno : NoLine use s) {e : Exn}
    (h : fetchWord s = .error e) : fetchDecode use s = .trap e := by
  rw [fetchDecode, (bit_low_eq_false_iff _).2 hpc, if_neg Bool.false_ne_true, hno.icacheHit_eq, h]

theorem fetchDecode_miss_ok {use : Bool} (hpc : s.pc.toNat % 2 = 0) (hno : NoLine use s) {line : IcacheLine}
    (h : fetchWord s = .ok line) : fetchDecode use s = decodeLine s.cfg.xlen line false := by
  rw [fetchDecode, (bit_low_eq_false_iff _).2 hpc, if_neg Bool.false_ne_true, hno.icacheHit_eq, h]

/-! ### The fetch by parcels (rule R423) -/

theorem fetchWord_low_error {e : Exn} (h : fetchParcel .fetchLow s.pc s = .error e) : fetchWord s = .error e := by
  rw [fetchWord, h]

theorem fetchWord_compressed {p : BitVec 16} (h : fetchParcel .fetchLow s.pc s = .ok p)
    (hp : p.extractLsb' 0 2 ≠ 3#2) : fetchWord s = .ok ⟨2, p.setWidth 32⟩ := by
  rw [fetchWord, h]
  exact if_pos hp

theorem fetchWord_high_error {p : BitVec 16} {e : Exn} (h : fetchParcel .fetchLow s.pc s = .ok p)
    (hp : p.extractLsb' 0 2 = 3#2) (h' : fetchParcel .fetchHigh (norm s.cfg.xlen (s.pc + 2)) s = .error e) :
    fetchWord s = .error e := by
  rw [fetchWord, h]
  dsimp only
  rw [if_neg (not_not.2 hp), h']

theorem fetchWord_word {p p' : BitVec 16} (h : fetchParcel .fetchLow s.pc s = .ok p)
    (hp : p.extractLsb' 0 2 = 3#2) (h' : fetchParcel .fetchHigh (norm s.cfg.xlen (s.pc + 2)) s = .ok p') :
    fetchWord s = .ok ⟨4, p' ++ p⟩ := by
  rw [fetchWord, h]
  dsimp only
  rw [if_neg (not_not.2 hp), h']

/-! ### Retire, and the step with its front half -/

/-- Settles O6: the fields of `retire`, the two counters by whether they advance. -/
theorem retireAdvancesPcAndCounters : Obligations.RetireAdvancesPcAndCounters := by
  intro executed s
  have hinc : ∀ v : BitVec 64, (v + 1).toNat = (v.toNat + 1) % 2 ^ 64 := fun v => BitVec.toNat_add v 1
  refine ⟨rfl, fun he ht hw => ?_, fun h => ?_, fun hw => ?_, fun hw => if_pos hw, rfl, rfl⟩
  · simp [retire, he, ht, hw]
  · refine if_neg ?_
    rcases h with h | h | h <;> simp [h]
  · simp [retire, hw]

/-- The address after an instruction, modulo 2^XLEN. -/
theorem linkAddr_toNat (len : Nat) (s : State) : (linkAddr len s).toNat = (s.pc.toNat + len) % 2 ^ s.cfg.xlen.bits := by
  rw [linkAddr, norm_toNat, BitVec.toNat_add, BitVec.toNat_ofNat, Nat.add_mod_mod]
  exact Nat.mod_mod_of_dvd _ (Nat.pow_dvd_pow 2 (Xlen_bits_le _))

/-- Settles O4: the front half's instruction, the two answers of an icache line, and the two cases of the fill. -/
theorem stepRunsFetchedInstruction : Obligations.StepRunsFetchedInstruction := by
  constructor
  · rintro s _ s1 hrun rfl hscan rfl
    rw [step_eq_runInstr hrun hscan]
    refine ⟨fun i line hit h => runInstr_of_instr h, fun line hpc hen hl huse => ?_, fun len => linkAddr_toNat len _⟩
    have hhit := fetchDecode_hit huse hpc hen hl
    exact ⟨fun i hi => runInstr_of_instr (hhit.trans (decodeLine_ok hi true)),
      fun d hd => runInstr_of_trap (hhit.trans (decodeLine_error hd true))⟩
  · intro i line hit fillAfterTrap t
    refine ⟨_, rfl, ?_⟩
    rcases fillIcache_cases i line hit fillAfterTrap t with ⟨hfill, h⟩ | ⟨hfill, h⟩ <;> rw [h]
    · exact ⟨rfl, fun _ => ⟨mapLookup_mapInsert_same _ _ _, fun a ha => mapLookup_mapInsert_other ha _ _⟩,
        fun hn => absurd hfill hn⟩
    · exact ⟨rfl, fun hf => absurd hf hfill, fun _ => rfl⟩

/-! ### Parcels as numbers -/

theorem parcel_low2_eq_three_iff (p : Nat) : (BitVec.ofNat 16 p).extractLsb' 0 2 = 3#2 ↔ p % 4 = 3 := by
  rw [← BitVec.toNat_inj, BitVec.extractLsb'_toNat, BitVec.toNat_ofNat]
  simp

/-- Two parcels side by side are the number with the second in the high half. -/
theorem parcels_append {p p' : Nat} (hp : p < 2 ^ 16) (hp' : p' < 2 ^ 16) :
    (BitVec.ofNat 16 p' ++ BitVec.ofNat 16 p : BitVec 32) = BitVec.ofNat 32 (p + 2 ^ 16 * p') := by
  apply BitVec.eq_of_toNat_eq
  rw [BitVec.toNat_append, BitVec.toNat_ofNat, BitVec.toNat_ofNat, Nat.mod_eq_of_lt hp, Nat.mod_eq_of_lt hp',
    ← Nat.shiftLeft_add_eq_or_of_lt hp, Nat.shiftLeft_eq, BitVec.toNat_ofNat]
  omega

/-- Settles O7: each failure of the front half is a trap of it, with the parcel's own address or the word. -/
theorem frontEndTraps : Obligations.FrontEndTraps := by
  rintro s _ s1 hrun rfl hscan rfl
  rw [step_eq_runInstr hrun hscan]
  generalize duringStep (nextInput s) (beginStep (nextInput s) s) = s1
  refine ⟨fun hodd => runInstr_of_trap (fetchDecode_odd hodd _), fun hpc hno => ?_⟩
  have hfail : ∀ e, fetchWord s1 = .error e → runInstr (nextInput s) s1 = .next (retire false (deliver e s1)) :=
    fun e he => runInstr_of_trap (fetchDecode_miss_error hpc hno he)
  have hword : ∀ line d, fetchWord s1 = .ok line → decodeWord s1.cfg.xlen line.word = .error d →
      runInstr (nextInput s) s1
        = .next (retire false (deliver ⟨.illegalInstr, line.word.setWidth 64⟩ s1)) :=
    fun line d hl hd => runInstr_of_trap ((fetchDecode_miss_ok hpc hno hl).trans (decodeLine_error hd false))
  refine ⟨hfail, hword, fun c hc => hfail _ (fetchWord_low_error hc.fetchParcel), fun p next hp h3 hnext => ?_⟩
  obtain ⟨hlow, hp16⟩ := hp.fetchParcel
  have h3 := (parcel_low2_eq_three_iff p).2 h3
  obtain rfl : next = norm s1.cfg.xlen (s1.pc + 2) := BitVec.eq_of_toNat_eq (hnext.trans (linkAddr_toNat 2 s1).symm)
  refine ⟨fun c hc => hfail _ (fetchWord_high_error hlow h3 hc.fetchParcel), fun p' d hp' hd => ?_⟩
  obtain ⟨hhigh, hp16'⟩ := hp'.fetchParcel
  have hline := fetchWord_word hlow h3 hhigh
  rw [parcels_append hp16 hp16'] at hline
  have htval : (BitVec.ofNat 32 (p + 2 ^ 16 * p')).setWidth 64 = BitVec.ofNat 64 (p + 2 ^ 16 * p') := by
    apply BitVec.eq_of_toNat_eq
    simp only [BitVec.toNat_setWidth, BitVec.toNat_ofNat]
    omega
  exact htval ▸ hword _ d hline hd

/-! ### The bytes of an encoding -/

/-- The two bytes of a parcel, as the number that a fetch reads. -/
theorem ofNat_parcel_bytes (c : BitVec 16) :
    BitVec.ofNat 16 ((c.extractLsb' 0 8).toNat + 256 * (c.extractLsb' 8 8).toNat) = c := by
  apply BitVec.eq_of_toNat_eq
  have := c.isLt
  simp only [BitVec.toNat_ofNat, BitVec.extractLsb'_toNat, Nat.shiftRight_eq_div_pow]
  omega

/-- A parcel whose bytes a fetch sees in a memory region is the one that it gives. -/
theorem fetchParcel_of_bytes {slot : Slot} {va : Word} {pa : Nat} {c : BitVec 16}
    (ht : translate .fetch slot va s = .ok pa) (hp : pmpOk .fetch pa 2 s = true) (hr : InRam pa 2 s)
    (h0 : seenByte slot none s pa = c.extractLsb' 0 8) (h1 : seenByte slot none s (pa + 1) = c.extractLsb' 8 8) :
    fetchParcel slot va s = .ok c := by
  have h : ParcelReads slot va ((c.extractLsb' 0 8).toNat + 256 * (c.extractLsb' 8 8).toNat) s :=
    ⟨pa, ht, hp, .inl ⟨hr, by rw [h0, h1]⟩⟩
  rw [h.fetchParcel.1, ofNat_parcel_bytes]

/-- A byte of a half of a word is a byte of the word. -/
theorem extractLsb'_byte (w : BitVec 32) (lo k : Nat) (h : k + 8 ≤ 16) :
    (w.extractLsb' lo 16).extractLsb' k 8 = w.extractLsb' (lo + k) 8 := by
  ext j hj
  simp [Nat.add_assoc, show k + j < 16 by omega]

/-- The length bits of a parcel, and of the low half of a word, are those of the encoding of an instruction. -/
theorem low2_of_encode_parcel {xl : Xlen} {i : Instr} {c : BitVec 16} (hwf : i.wf xl = true)
    (he : encode i = .parcel c) : c.extractLsb' 0 2 ≠ 3#2 := cQuadrant_ne_of_decode16 (decode16_encode hwf he)

theorem low2_of_encode_word {xl : Xlen} {i : Instr} {w : BitVec 32} (hwf : i.wf xl = true) (he : encode i = .word w) :
    (w.extractLsb' 0 16).extractLsb' 0 2 = 3#2 := by
  rw [BitVec.extractLsb'_extractLsb'_of_le (by omega)]
  exact low2_of_decode32 (decode32_encode hwf he)

/-- Settles O5: the parcels' bytes are fetched as the encoding, and the decoder reads the instruction back. -/
theorem stepRunsBytesAtPc : Obligations.StepRunsBytesAtPc := by
  rintro s _ s1 i pa0 pa1 hrun rfl hscan rfl hwf hpc hno ht0 hp0 hr0 hb0 hhigh
  rw [step_eq_runInstr hrun hscan]
  generalize duringStep (nextInput s) (beginStep (nextInput s) s) = s1 at *
  have hfetch : fetchWord s1 = .ok ⟨(encode i).len, (encode i).bits⟩ := by
    cases he : encode i with
    | parcel c =>
      rw [he] at hb0
      exact fetchWord_compressed (fetchParcel_of_bytes ht0 hp0 hr0 (hb0 0 (by decide)) (hb0 1 (by decide)))
        (low2_of_encode_parcel hwf he)
    | word w =>
      rw [he] at hb0 hhigh
      obtain ⟨ht1, hp1, hr1, hb1⟩ := hhigh rfl
      have hlow : fetchParcel .fetchLow s1.pc s1 = .ok (w.extractLsb' 0 16) :=
        fetchParcel_of_bytes ht0 hp0 hr0 ((hb0 0 (by decide)).trans (extractLsb'_byte w 0 0 (by decide)).symm)
          ((hb0 1 (by decide)).trans (extractLsb'_byte w 0 8 (by decide)).symm)
      have hhi : fetchParcel .fetchHigh (norm s1.cfg.xlen (s1.pc + 2)) s1 = .ok (w.extractLsb' 16 16) :=
        fetchParcel_of_bytes ht1 hp1 hr1 ((hb1 0 (by decide)).trans (extractLsb'_byte w 16 0 (by decide)).symm)
          ((hb1 1 (by decide)).trans (extractLsb'_byte w 16 8 (by decide)).symm)
      have hw : w.extractLsb' 16 16 ++ w.extractLsb' 0 16 = w := BitVec.extractLsb'_append_extractLsb'
      rw [fetchWord_word hlow (low2_of_encode_word hwf he) hhi, hw]
      rfl
  exact runInstr_of_instr ((fetchDecode_miss_ok hpc hno hfetch).trans (decodeLine_ok (decodeOfEncode _ i hwf) false))

end Sys2Proof.Machine
end

section
/-!
What arrives before a step and during it (40_step.md rules R420, R435): the arrivals before the timer facility acts, and
which of the stores during the step a bus access sees.
-/

namespace Sys2Proof.Machine

variable {s : State}

/-! ### Before a step -/

/-- The step's own start: the draw is taken and nothing of the last step is pending. -/
def atStart (s : State) : State :=
  { s with env := s.env.tail, former := [], trapPending := false, wroteMcycle := false, wroteMinstret := false }

/-- The state that the timer facility finds: line calls, stores and dropped reservations have arrived and the uptime has
moved on. -/
theorem beginStep_eq_fireTimer (i : StepInput) (s : State) : ∃ mip mem resv uptime,
    beginStep i s
      = fireTimer i.timerWaits { atStart s with mip := mip, mem := mem, resv := resv, uptime := uptime }
    ∧ (∀ k, k < 64 → bit mip k = lineAfter i.lines k (bit s.mip k))
    ∧ (∀ a, readByte mem a = byteAfter i.busWrites s a)
    ∧ (∀ e, e ∈ resv → e ∈ s.resv) ∧ (s.cfg.resvSpurious = false → resv = s.resv)
    ∧ uptime.toNat = min (s.uptime.toNat + i.advance.toNat) (2 ^ 64 - 1) := by
  obtain ⟨mip, hlines, hbits⟩ := lines_cases i.lines (atStart s)
  obtain ⟨mem, hwrites, -, hbytes⟩ := busWrites_cases i.busWrites { atStart s with mip := mip }
  obtain ⟨resv, hdrop, hmem, hkeep, -⟩ := dropReservations_cases i.dropResv { atStart s with mip := mip, mem := mem }
  have h : beginStep i s = fireTimer i.timerWaits (advanceUptime i.advance (dropReservations i.dropResv
      (i.busWrites.foldl (fun s c => applyBusWrite c s) (i.lines.foldl (fun s l => applyLine l s) (atStart s))))) := rfl
  rw [hlines, hwrites, hdrop] at h
  exact ⟨mip, mem, resv, _, h, hbits, hbytes, hmem, hkeep, advanceUptime_uptime i.advance s⟩

/-! ### During a step -/

/-- The state after the line calls, in which the stores of the step arrive. -/
theorem duringStep_eq_lateWrites (i : StepInput) (s : State) : ∃ mip,
    duringStep i s = i.lateWrites.foldl (fun s w => applyLateWrite w s) { s with mip := mip }
    ∧ ∀ k, k < 64 → bit mip k = lineAfter i.lateLines k (bit s.mip k) := by
  obtain ⟨mip, hlines, hbits⟩ := lines_cases i.lateLines s
  exact ⟨mip, by rw [duringStep, hlines], hbits⟩

/-- Stores that all come after a bus access leave what it sees. -/
theorem seenByte_lateWrites_before {slot : Slot} {level : Option Nat} {writes : List (Nat × Host.Cell)}
    (h : ∀ w ∈ writes, accessRank slot level < w.1) (hr : accessRank slot level < 17) (s : State) (a : Nat) :
    seenByte slot level (writes.foldl (fun s w => applyLateWrite w s) s) a = seenByte slot level s a := by
  induction writes generalizing s with
  | nil => rfl
  | cons w writes ih =>
    rw [List.foldl_cons, ih (fun v hv => h v (List.mem_cons_of_mem _ hv)),
      seenByte_applyLateWrite_before (h w List.mem_cons_self) hr]

/-- The bytes after the first store and then the others, from the state that the first one leaves. -/
theorem byteAfter_cons_lateWrite (w : Nat × Host.Cell) (writes : List Host.Cell) (s : State) (a : Nat) :
    byteAfter (w.2 :: writes) s a = byteAfter writes (applyLateWrite w s) a := by
  obtain ⟨m, h, -, hb⟩ := applyLateWrite_cases w s
  simp only [h, byteAfter, List.foldl_cons, hb a]

/-- A bus access sees exactly the stores whose place is not after its own, where they come in the order of their
places. -/
theorem seenByte_lateWrites {slot : Slot} {level : Option Nat} (hr : accessRank slot level < 17)
    {writes : List (Nat × Host.Cell)} (hsorted : writes.Pairwise (fun p q => p.1 ≤ q.1)) {s : State} {a : Nat}
    (hf : formerByte (accessRank slot level) a s.former = none) :
    seenByte slot level (writes.foldl (fun s w => applyLateWrite w s) s) a
      = byteAfter ((writes.filter (fun w => decide (w.1 ≤ accessRank slot level))).map (·.2)) s a := by
  induction writes generalizing s with
  | nil => simp [seenByte, hf, byteAfter]
  | cons w writes ih =>
    obtain ⟨hle, hsorted'⟩ := List.pairwise_cons.1 hsorted
    by_cases hw : w.1 ≤ accessRank slot level
    · rw [List.foldl_cons, ih hsorted' (formerByte_applyLateWrite_after hw hf),
        List.filter_cons_of_pos (by simpa using hw), List.map_cons, byteAfter_cons_lateWrite]
    · have hlate : ∀ v ∈ w :: writes, accessRank slot level < v.1 := fun v hv => by
        rcases List.mem_cons.1 hv with rfl | hv
        · omega
        · have := hle v hv; omega
      have hnone : (w :: writes).filter (fun w => decide (w.1 ≤ accessRank slot level)) = [] :=
        List.filter_eq_nil_iff.2 fun v hv => by simpa using hlate v hv
      rw [seenByte_lateWrites_before hlate hr, hnone]
      simp [seenByte, hf, byteAfter]

/-! ### The steps and their arrivals -/

theorem step_of_runState (s : State) : (s.runState ≠ .running → step s = .refused .hartNotRunning)
    ∧ (s.runState = .running → ∃ t, step s = .next t) ∧ ∀ i rest, s.env = i :: rest → nextInput s = i :=
  ⟨step_refused, step_next, fun i rest h => by rw [nextInput, h]⟩

/-- Settles O8: the run-state decides whether the hart steps; the arrivals before a step up to the timer facility and
its two cases; the line calls and the stores during a step. -/
theorem stepsAndArrivals : Obligations.StepsAndArrivals := by
  refine ⟨step_of_runState, fun i s => ?_, fun i s => ?_⟩
  · obtain ⟨mip, mem, resv, uptime, hbegin, hbits, hbytes, hmem, hkeep, hup⟩ := beginStep_eq_fireTimer i s
    dsimp only
    rw [hbegin]
    rcases fireTimer_cases i.timerWaits { atStart s with mip := mip, mem := mem, resv := resv, uptime := uptime } with
      ⟨d, hd, hle, hw, h⟩ | ⟨hno, h⟩ <;> rw [h]
    · have hfires : ∃ d, s.timerDeadline = some d ∧ d.toNat ≤ uptime.toNat ∧ i.timerWaits = false := ⟨d, hd, hle, hw⟩
      refine ⟨fun k hk h5 => ?_, fun _ => ⟨?_, rfl⟩, fun hn => absurd hfires hn, hup, hmem, hkeep, hbytes, rfl⟩
      · rw [bit_setBit _ _ _ _ hk, if_neg fun h => h5 h hfires, hbits k hk]
      · rw [bit_setBit _ _ _ _ (by decide), if_pos rfl]
    · exact ⟨fun k hk _ => hbits k hk, fun hf => absurd hf hno, fun _ => rfl, hup, hmem, hkeep, hbytes, rfl⟩
  · obtain ⟨mip, hduring, hbits⟩ := duringStep_eq_lateWrites i s
    obtain ⟨mem, former, hwrites, -, hbytes⟩ := lateWrites_cases i.lateWrites { s with mip := mip }
    have ht : duringStep i s = { s with mip := mip, mem := mem, former := former } := hduring.trans hwrites
    dsimp only
    refine ⟨ht ▸ hbits, ht ▸ hbytes, by rw [ht], fun hf hsorted slot level a hr => ?_, fun a => seenByte_data _ a⟩
    rw [hduring]
    exact seenByte_lateWrites hr hsorted (by simp [hf, formerByte])

end Sys2Proof.Machine
end

section
/-!
The integer computational instructions and their compressed forms (41_integer.md, 49_compressed.md): each writes one
register with a word that reads as the stated number modulo 2^XLEN.
-/

namespace Sys2Proof.Machine

/-! ### The numbers that the written words stand for -/

theorem ReadsAs.andReg (rs1 rs2 : Reg) (s : State) :
    ReadsAs s.cfg.xlen (readX rs1 s &&& readX rs2 s) (Machine.regU rs1 s &&& Machine.regU rs2 s : Nat) := by
  rw [Machine.regU, Machine.regU, ← BitVec.toNat_and]; exact .nat _ _

theorem ReadsAs.orReg (rs1 rs2 : Reg) (s : State) :
    ReadsAs s.cfg.xlen (readX rs1 s ||| readX rs2 s) (Machine.regU rs1 s ||| Machine.regU rs2 s : Nat) := by
  rw [Machine.regU, Machine.regU, ← BitVec.toNat_or]; exact .nat _ _

theorem ReadsAs.xorReg (rs1 rs2 : Reg) (s : State) :
    ReadsAs s.cfg.xlen (readX rs1 s ^^^ readX rs2 s) (Machine.regU rs1 s ^^^ Machine.regU rs2 s : Nat) := by
  rw [Machine.regU, Machine.regU, ← BitVec.toNat_xor]; exact .nat _ _

/-- Adding `x0` leaves the number as it is (the expansions of C.LI and C.MV). -/
theorem ReadsAs.x0_add {xl : Xlen} {w : Word} {v : Int} (h : ReadsAs xl w v) (s : State) :
    ReadsAs xl (readX 0 s + w) v := by
  rwa [readX_zero, zero_add]

theorem ReadsAs.sltReg (rs1 rs2 : Reg) (s : State) :
    ReadsAs s.cfg.xlen (boolWord (ltS s.cfg.xlen (readX rs1 s) (readX rs2 s)))
      (ofProp (Machine.regS rs1 s < Machine.regS rs2 s)) :=
  .bool _ _ _ (by rw [ltS_iff, sx_toInt, sx_toInt])

theorem ReadsAs.sltuReg (rs1 rs2 : Reg) (s : State) :
    ReadsAs s.cfg.xlen (boolWord (ltU (readX rs1 s) (readX rs2 s)))
      (ofProp (Machine.regU rs1 s < Machine.regU rs2 s)) :=
  .bool _ _ _ (ltU_iff _ _)

theorem ReadsAs.sltImm (rs1 : Reg) (imm : BitVec 12) (s : State) :
    ReadsAs s.cfg.xlen (boolWord (ltS s.cfg.xlen (readX rs1 s) (Machine.sextImm imm)))
      (ofProp (Machine.regS rs1 s < imm.toInt)) :=
  .bool _ _ _ (by rw [ltS_iff, sx_toInt, sx_sextImm])

/-- SLTIU compares with the sign-extended immediate as an unsigned number (41_integer.md rule R455). -/
theorem ReadsAs.sltuImm (rs1 : Reg) (imm : BitVec 12) (s : State) :
    ReadsAs s.cfg.xlen (boolWord (ltU (readX rs1 s) (Machine.norm s.cfg.xlen (Machine.sextImm imm))))
      (ofProp ((Machine.regU rs1 s : Int) < wrapX imm.toInt s)) :=
  .bool _ _ _ (by
    rw [ltU_iff, ← Int.ofNat_lt, (ReadsAs.sextImm s.cfg.xlen imm).toNat_norm]
    rfl)

/-! ### The instructions -/

/-- Settles O19: each form writes its destination, with a sum, a comparison, a bitwise combination or an immediate
alone. -/
theorem immediateResults : Obligations.ImmediateResults := by
  intro rd rs1 imm up crd c8 c6 s
  rw [← wide_eq crd]
  refine ⟨?lui, ?auipc, ?addi, ?slti, ?sltiu, ?xori, ?ori, ?andi, ?cAddi4spn, ?cNop, ?cAddi, ?cLi, ?cAddi16sp, ?cLui,
    ?cAndi⟩
  case lui => exact givesX_of rfl fun _ => .upperImm _ up
  case auipc => exact givesX_of rfl fun _ => (ReadsAs.nat _ s.pc).add (.upperImm _ up)
  case addi => exact givesX_of rfl fun _ => (ReadsAs.regU rs1 s).add (.sextImm _ imm)
  case slti => exact givesX_of rfl fun _ => .sltImm rs1 imm s
  case sltiu => exact givesX_of rfl fun _ => .sltuImm rs1 imm s
  case xori => exact givesX_of rfl fun _ => .xorImm rs1 imm s
  case ori => exact givesX_of rfl fun _ => .orImm rs1 imm s
  case andi => exact givesX_of rfl fun _ => .andImm rs1 imm s
  case cAddi4spn => exact givesX_of rfl fun _ => (ReadsAs.regU 2 s).add (.scaledImm _ 2 (by decide) c8)
  case cNop => exact givesX_of rfl fun h => absurd rfl h
  case cAddi => exact givesX_of rfl fun _ => (ReadsAs.regU rd s).add (.sextImm _ c6)
  case cLi => exact givesX_of rfl fun _ => (ReadsAs.sextImm _ c6).x0_add s
  case cAddi16sp => exact givesX_of rfl fun _ => (ReadsAs.regU 2 s).add (.imm16sp _ c6)
  case cLui => exact givesX_of rfl fun _ => .upperImm _ c6
  case cAndi => exact givesX_of rfl fun _ => .andImm (cReg crd) c6 s

/-- Settles O20: a left shift multiplies, a logical right shift divides the unsigned reading, an arithmetic one the
signed reading; `shiftReg` is the register's number modulo XLEN. -/
theorem shiftResults : Obligations.ShiftResults := by
  intro rd rs1 rs2 crd sh s
  rw [← wide_eq crd]
  refine ⟨?slli, ?srli, ?srai, ?sll, ?srl, ?sra, ?cSlli, ?cSrli, ?cSrai⟩
  case slli => exact givesX_of rfl fun _ => (ReadsAs.regU rs1 s).shl sh.toNat
  case srli => exact givesX_of rfl fun _ => .srl rs1 sh.toNat s
  case srai => exact givesX_of rfl fun _ => .sra rs1 sh.toNat s
  case sll => exact givesX_of rfl fun _ => (ReadsAs.regU rs1 s).shl (shiftReg rs2 s)
  case srl => exact givesX_of rfl fun _ => .srl rs1 (shiftReg rs2 s) s
  case sra => exact givesX_of rfl fun _ => .sra rs1 (shiftReg rs2 s) s
  case cSlli => exact givesX_of rfl fun _ => (ReadsAs.regU rd s).shl sh.toNat
  case cSrli => exact givesX_of rfl fun _ => .srl (cReg crd) sh.toNat s
  case cSrai => exact givesX_of rfl fun _ => .sra (cReg crd) sh.toNat s

/-- Settles O21: each form writes its destination with a sum, a difference, a comparison or a bitwise combination of
two registers. -/
theorem registerResults : Obligations.RegisterResults := by
  intro rd rs1 rs2 crd crs2 s
  rw [← wide_eq crd, ← wide_eq crs2]
  refine ⟨?add, ?sub, ?slt, ?sltu, ?xor, ?or, ?and, ?cMv, ?cAdd, ?cSub, ?cXor, ?cOr, ?cAnd⟩
  case add => exact givesX_of rfl fun _ => (ReadsAs.regU rs1 s).add (.regU rs2 s)
  case sub => exact givesX_of rfl fun _ => (ReadsAs.regU rs1 s).sub (.regU rs2 s)
  case slt => exact givesX_of rfl fun _ => .sltReg rs1 rs2 s
  case sltu => exact givesX_of rfl fun _ => .sltuReg rs1 rs2 s
  case xor => exact givesX_of rfl fun _ => .xorReg rs1 rs2 s
  case or => exact givesX_of rfl fun _ => .orReg rs1 rs2 s
  case and => exact givesX_of rfl fun _ => .andReg rs1 rs2 s
  case cMv => exact givesX_of rfl fun _ => (ReadsAs.regU rs2 s).x0_add s
  case cAdd => exact givesX_of rfl fun _ => (ReadsAs.regU rd s).add (.regU rs2 s)
  case cSub => exact givesX_of rfl fun _ => (ReadsAs.regU (cReg crd) s).sub (.regU (cReg crs2) s)
  case cXor => exact givesX_of rfl fun _ => .xorReg (cReg crd) (cReg crs2) s
  case cOr => exact givesX_of rfl fun _ => .orReg (cReg crd) (cReg crs2) s
  case cAnd => exact givesX_of rfl fun _ => .andReg (cReg crd) (cReg crs2) s

/-- Settles O22: the operation is one modulo 2^32 on the low words (`ReadsAs .rv32`), and `ReadsAs.word` sign-extends
its result; the arithmetic shifts divide the sign-extended low word, whose quotient needs no further wrapping. -/
theorem wordResults : Obligations.WordResults := by
  intro rd rs1 rs2 imm sh crd crs2 c6 s
  rw [← wide_eq crd, ← wide_eq crs2, ← shiftRegW_eq rs2 s]
  refine ⟨?addiw, ?slliw, ?srliw, ?sraiw, ?addw, ?subw, ?sllw, ?srlw, ?sraw, ?cAddiw, ?cSubw, ?cAddw⟩
  case addiw => exact givesX_of rfl fun _ => ((ReadsAs.lowU rs1 s).add (.sextImm _ imm)).word
  case slliw => exact givesX_of rfl fun _ => ((ReadsAs.lowU rs1 s).shl sh.toNat).word
  case srliw => exact givesX_of rfl fun _ => (ReadsAs.srlw rs1 sh.toNat s).word
  case sraiw => exact givesX_of rfl fun _ => .sraw _ rs1 sh.toNat s
  case addw => exact givesX_of rfl fun _ => ((ReadsAs.lowU rs1 s).add (.lowU rs2 s)).word
  case subw => exact givesX_of rfl fun _ => ((ReadsAs.lowU rs1 s).sub (.lowU rs2 s)).word
  case sllw => exact givesX_of rfl fun _ => ((ReadsAs.lowU rs1 s).shl (shiftRegW rs2 s)).word
  case srlw => exact givesX_of rfl fun _ => (ReadsAs.srlw rs1 (shiftRegW rs2 s) s).word
  case sraw => exact givesX_of rfl fun _ => .sraw _ rs1 (shiftRegW rs2 s) s
  case cAddiw => exact givesX_of rfl fun _ => ((ReadsAs.lowU rd s).add (.sextImm _ c6)).word
  case cSubw => exact givesX_of rfl fun _ => ((ReadsAs.lowU (cReg crd) s).sub (.lowU (cReg crs2) s)).word
  case cAddw => exact givesX_of rfl fun _ => ((ReadsAs.lowU (cReg crd) s).add (.lowU (cReg crs2) s)).word

end Sys2Proof.Machine
end

section
/-!
Jumps and conditional branches (42_control.md rules R500 to R509) and their compressed forms (49_compressed.md rules
R802, R816 to R818, R830, R832): the numbers that link values and targets stand for, and what an instruction that moves
`npc` gives in the words of Safety.lean.
-/

namespace Sys2Proof.Machine

/-! ### Link values and targets -/

theorem ReadsAs.linkAddr (len : Nat) (s : State) :
    ReadsAs s.cfg.xlen (Machine.linkAddr len s) (s.pc.toNat + len) := by
  rw [ReadsAs, linkAddr_toNat]
  push_cast
  exact Int.emod_emod_of_dvd _ dvd_rfl

theorem clearBit0_toNat (w : Word) : (w &&& ~~~1#64).toNat = w.toNat / 2 * 2 := by
  have h : w &&& ~~~1#64 = w >>> 1 <<< 1 := (BitVec.shiftLeft_ushiftRight (x := w) (n := 1)).symm
  rw [h, BitVec.toNat_shiftLeft, BitVec.toNat_ushiftRight]
  omega

/-- Clearing bit 0 rounds down to an even number, since 2^XLEN is even. -/
theorem ReadsAs.clearBit0 {xl : Xlen} {w : Word} {v : Int} (h : ReadsAs xl w v) :
    ReadsAs xl (w &&& ~~~1#64) (v / 2 * 2) := by
  unfold ReadsAs at *
  rw [clearBit0_toNat]
  cases xl <;> simp only [Xlen.bits] at * <;> omega

/-- The target of C.JR and C.JALR, whose offset is 0. -/
theorem ReadsAs.registerTarget (rs1 : Reg) (s : State) :
    ReadsAs s.cfg.xlen ((readX rs1 s + 0) &&& ~~~1#64) (Machine.regU rs1 s / 2 * 2 : Nat) := by
  rw [add_zero]
  exact_mod_cast (ReadsAs.regU rs1 s).clearBit0

/-! ### What an instruction that moves `npc` gives -/

/-- The frame of a register write does not see that `npc` moved before it. -/
theorem OnlyX.of_npc {rd : Reg} {npc : Word} {s t : State} (h : OnlyX rd { s with npc := npc } t) : OnlyX rd s t :=
  ⟨h.regs, h.memory, h.rest⟩

theorem givesJump_of {i : Instr} {rd : Reg} {a w : Word} {link target : Int} {s : State}
    (h : exec i s = .next (writeX rd w { s with npc := norm s.cfg.xlen a }))
    (hlink : rd ≠ 0 → ReadsAs s.cfg.xlen w link) (htarget : ReadsAs s.cfg.xlen a target) :
    GivesJump i rd link target s := by
  refine ⟨_, h, ?_, (onlyX_writeX rd w _).of_npc, ?_⟩
  · by_cases hr : rd = 0
    · subst hr; rfl
    · exact regU_writeX_same rfl (hlink hr)
  · rw [writeX_npc]
    exact htarget.toNat_norm

theorem givesBranch_of {i : Instr} {taken : Bool} {cond : Prop} {a : Word} {offset : Int} {s : State}
    (h : exec i s = .next (branch taken a s)) (hcond : taken = true ↔ cond) (hoff : ReadsAs s.cfg.xlen a offset) :
    GivesBranch i cond offset s := by
  refine ⟨_, h, ?_⟩
  cases taken with
  | true =>
    have htarget := ((ReadsAs.nat s.cfg.xlen s.pc).add hoff).toNat_norm
    exact ⟨⟨fun _ => rfl, rfl⟩, fun _ => htarget, fun hn => absurd (hcond.1 rfl) hn⟩
  | false => exact ⟨⟨fun _ => rfl, rfl⟩, fun hc => absurd (hcond.2 hc) Bool.false_ne_true, fun _ => rfl⟩

/-! ### Branch conditions -/

theorem readX_beq_iff (rs1 rs2 : Reg) (s : State) : (readX rs1 s == readX rs2 s) = true ↔ regU rs1 s = regU rs2 s :=
  beq_iff_eq.trans BitVec.toNat_inj.symm

theorem readX_beq_zero_iff (rs1 : Reg) (s : State) : (readX rs1 s == 0) = true ↔ regU rs1 s = 0 :=
  readX_beq_iff rs1 0 s

theorem ltS_readX_iff (rs1 rs2 : Reg) (s : State) :
    ltS s.cfg.xlen (readX rs1 s) (readX rs2 s) = true ↔ regS rs1 s < regS rs2 s := by
  rw [ltS_iff, sx_toInt, sx_toInt]

/-- A negated test decides the opposite condition. -/
theorem not_eq_true_iff_not {b : Bool} {p : Prop} (h : b = true ↔ p) : (!b) = true ↔ ¬p :=
  Bool.not_iff_not.trans (not_congr h)

/-! ### The instructions -/

/-- Settles O25: each form moves `npc` to a sum or to a register's number rounded down to even, and writes the link
value; the register is read in the state before the link is written. -/
theorem jumpResults : Obligations.JumpResults := by
  intro rd rs1 off imm c11 s
  refine ⟨?jal, ?jalr, ?cJal, ?cJ, ?cJr, ?cJalr⟩
  case jal => exact givesJump_of rfl (fun _ => .linkAddr 4 s) ((ReadsAs.nat _ s.pc).add (.sextHalf _ off))
  case jalr => exact givesJump_of rfl (fun _ => .linkAddr 4 s) ((ReadsAs.regU rs1 s).add (.sextImm _ imm)).clearBit0
  case cJal => exact givesJump_of rfl (fun _ => .linkAddr 2 s) ((ReadsAs.nat _ s.pc).add (.sextHalf _ c11))
  case cJ => exact givesJump_of (w := 0) rfl (fun h => absurd rfl h) ((ReadsAs.nat _ s.pc).add (.sextHalf _ c11))
  case cJr => exact givesJump_of rfl (fun h => absurd rfl h) (.registerTarget rs1 s)
  case cJalr => exact givesJump_of rfl (fun _ => .linkAddr 2 s) (.registerTarget rs1 s)

/-- Settles O26: each form is `branch` on a test of its registers that decides the stated condition. -/
theorem branchResults : Obligations.BranchResults := by
  intro rs1 rs2 imm crs1 c8 s
  rw [← wide_eq crs1]
  refine ⟨?beq, ?bne, ?blt, ?bge, ?bltu, ?bgeu, ?cBeqz, ?cBnez⟩
  case beq => exact givesBranch_of rfl (readX_beq_iff rs1 rs2 s) (.sextHalf _ imm)
  case bne => exact givesBranch_of rfl (not_eq_true_iff_not (readX_beq_iff rs1 rs2 s)) (.sextHalf _ imm)
  case blt => exact givesBranch_of rfl (ltS_readX_iff rs1 rs2 s) (.sextHalf _ imm)
  case bge => exact givesBranch_of rfl ((not_eq_true_iff_not (ltS_readX_iff rs1 rs2 s)).trans not_lt) (.sextHalf _ imm)
  case bltu => exact givesBranch_of rfl (ltU_iff _ _) (.sextHalf _ imm)
  case bgeu => exact givesBranch_of rfl ((not_eq_true_iff_not (ltU_iff _ _)).trans not_lt) (.sextHalf _ imm)
  case cBeqz => exact givesBranch_of rfl (readX_beq_zero_iff (cReg crs1) s) (.sextHalf _ c8)
  case cBnez => exact givesBranch_of rfl (not_eq_true_iff_not (readX_beq_zero_iff (cReg crs1) s)) (.sextHalf _ c8)

end Sys2Proof.Machine
end

section
/-!
Loads and stores (43_loadstore.md rules R520 to R533) and their compressed forms (49_compressed.md rules R792 to R798,
R822, R824, R836, R838): the number an effective address stands for, and each form as `loadX` or `storeBytes` at its
effective address.
-/

namespace Sys2Proof.Machine

/-! ### Effective addresses -/

/-- An effective address is the number of the base register plus the number its offset stands for (rule R520). -/
theorem effAddr_toNat {base : Reg} {offset : Word} {v : Int} {s : State} (h : ReadsAs s.cfg.xlen offset v) :
    ((effAddr base offset s).toNat : Int) = wrapX (regU base s + v) s :=
  ((ReadsAs.regU base s).add h).toNat_norm

/-- Settles O27: the offset of a 32-bit form reads as its signed field, that of a compressed form as its field
scaled. -/
theorem effectiveAddresses : Obligations.EffectiveAddresses := by
  intro base imm c5 c6 s
  refine ⟨?signed, ?scaled4, ?scaled8, ?scaled4SP, ?scaled8SP⟩
  case signed => exact effAddr_toNat (.sextImm _ imm)
  case scaled4 => exact effAddr_toNat (.scaledImm _ 2 (by decide) c5)
  case scaled8 => exact effAddr_toNat (.scaledImm _ 3 (by decide) c5)
  case scaled4SP => exact effAddr_toNat (.scaledImm _ 2 (by decide) c6)
  case scaled8SP => exact effAddr_toNat (.scaledImm _ 3 (by decide) c6)

/-! ### The instructions -/

/-- Settles O28: each form is `loadX` of its width and extension, and a read that passes its checks gives the number
at the translated address. -/
theorem loadResults : Obligations.LoadResults := by
  intro rd rs1 imm crd crs1 c5 c6 pa v s
  rw [← wide_eq crd, ← wide_eq crs1]
  refine ⟨fun hl => ⟨?lb, ?lbu⟩, fun hl => ⟨?lh, ?lhu⟩, fun hl => ⟨?lw, ?lwu⟩, fun hl => ?ld, fun hl => ?cLw,
    fun hl => ?cLd, fun hl => ?cLwsp, fun hl => ?cLdsp⟩
  case lb => exact givesX_load (by decide) hl .signed rfl
  case lbu => exact givesX_load (by decide) hl .unsigned rfl
  case lh => exact givesX_load (by decide) hl .signed rfl
  case lhu => exact givesX_load (by decide) hl .unsigned rfl
  case lw => exact givesX_load (by decide) hl .signed rfl
  case lwu => exact givesX_load (by decide) hl .unsigned rfl
  case ld => exact givesX_load (by decide) hl .unsigned rfl
  case cLw => exact givesX_load (by decide) hl .signed rfl
  case cLd => exact givesX_load (by decide) hl .unsigned rfl
  case cLwsp => exact givesX_load (by decide) hl .signed rfl
  case cLdsp => exact givesX_load (by decide) hl .unsigned rfl

/-- Settles O29: each form is `storeBytes` of its width, whose write changes the bytes at the translated address
alone. -/
theorem storeResults : Obligations.StoreResults := by
  intro rs1 rs2 imm crs1 crs2 c5 c6 s
  rw [← wide_eq crs1, ← wide_eq crs2]
  refine ⟨?sb, ?sh, ?sw, ?sd, ?cSw, ?cSd, ?cSwsp, ?cSdsp⟩
  case sb => exact givesStore_of (by decide) rfl
  case sh => exact givesStore_of (by decide) rfl
  case sw => exact givesStore_of (by decide) rfl
  case sd => exact givesStore_of (by decide) rfl
  case cSw => exact givesStore_of (by decide) rfl
  case cSd => exact givesStore_of (by decide) rfl
  case cSwsp => exact givesStore_of (by decide) rfl
  case cSdsp => exact givesStore_of (by decide) rfl

end Sys2Proof.Machine
end

section
/-!
What an instruction that is no CSR instruction can do to the CSRs and to the reservation table (44_system.md rule R570,
60_exceptions.md rule R874, 46_atomics.md rule R622).
-/

namespace Sys2Proof.Machine

variable {i : Instr} {s t : State}

/-- What an instruction that is no CSR instruction can do: a plain change, a trap after one, the halt, a fence or a
return. Only LR and SC reach the reservation table. -/
inductive NonCsrEffect (i : Instr) (s : State) : State → Prop
  | plain {t : State} : Plain s t → (isReservation i = false → t.resv = s.resv) → NonCsrEffect i s t
  | trap {t : State} (e : Exn) :
      Plain s t → (isReservation i = false → t.resv = s.resv) → NonCsrEffect i s (deliver e t)
  | halt : NonCsrEffect i s (haltHart s)
  | fence : NonCsrEffect i s (flushIcache s)
  | mret : NonCsrEffect i s (returnM s)
  | sret : NonCsrEffect i s (returnS s)

theorem NonCsrEffect.refl : NonCsrEffect i s s := .plain .refl fun _ => rfl

theorem NonCsrEffect.raise (e : Exn) : NonCsrEffect i s (deliver e s) := .trap e .refl fun _ => rfl

theorem NonCsrEffect.x (rd : Reg) (v : Word) : NonCsrEffect i s (writeX rd v s) :=
  .plain (.x rd v .refl) fun _ => writeX_resv _ _ _

/-! ### The shared operations -/

theorem NonCsrEffect.loadX (rd : Reg) (ea : Word) (n : Nat) (ext : Ext) : NonCsrEffect i s (loadX rd ea n ext s) := by
  rcases loadX_cases rd ea n ext s with ⟨e, h⟩ | ⟨v, h⟩ <;> rw [h]
  · exact .raise e
  · exact .x rd v

theorem NonCsrEffect.storeBytes (ea : Word) (n : Nat) (v : Word) : NonCsrEffect i s (storeBytes ea n v s) := by
  rcases storeBytes_cases ea n v s with ⟨e, h⟩ | h | ⟨pa, -, h⟩ <;> rw [h]
  · exact .raise e
  · exact .refl
  · exact .plain (Plain.refl.mem pa n v) fun _ => rfl

theorem NonCsrEffect.loadF (bits : Word) (fmt : Fmt) (rd : FReg) (ea : Word) :
    NonCsrEffect i s (loadF bits fmt rd ea s) := by
  rcases loadF_cases bits fmt rd ea s with ⟨e, h⟩ | ⟨v, -, h⟩ <;> rw [h]
  · exact .raise e
  · exact .plain (Plain.refl.writeFDirty rd v) fun _ => rfl

theorem NonCsrEffect.storeF (bits : Word) (fmt : Fmt) (rs2 : FReg) (ea : Word) :
    NonCsrEffect i s (storeF bits fmt rs2 ea s) := by
  rcases storeF_cases bits fmt rs2 ea s with ⟨-, h⟩ | ⟨-, h⟩ <;> rw [h]
  · exact .raise _
  · exact .storeBytes _ _ _

theorem NonCsrEffect.loadReserved (hi : isReservation i = true) (n : Nat) (rd rs1 : Reg) :
    NonCsrEffect i s (loadReserved n rd rs1 s) := by
  have hres : ∀ {p : Prop}, isReservation i = false → p := fun hf => by simp [hi] at hf
  rcases loadReserved_cases n rd rs1 s with ⟨e, h⟩ | ⟨pa, v, w, h⟩ <;> rw [h]
  · exact .raise e
  · exact .plain ((Plain.refl.resv _ keysSorted_mapInsert).x rd w) hres

theorem NonCsrEffect.storeConditional (hi : isReservation i = true) (n : Nat) (rd rs1 rs2 : Reg) :
    NonCsrEffect i s (storeConditional n rd rs1 rs2 s) := by
  have hres : ∀ {p : Prop}, isReservation i = false → p := fun hf => by simp [hi] at hf
  have hp : ∀ pa, Plain s { s with resv := mapErase pa s.resv } := fun pa => Plain.refl.resv _ keysSorted_mapErase
  rcases storeConditional_cases n rd rs1 rs2 s with ⟨e, h⟩ | h | ⟨pa, -, ⟨e, h⟩ | ⟨w, h⟩ | ⟨w, v, h⟩⟩ <;> rw [h]
  · exact .raise e
  · exact .plain ((Plain.refl.resv [] fun _ => .nil).x rd 1) hres
  · exact .trap e (hp pa) hres
  · exact .plain ((hp pa).x rd w) hres
  · exact .plain (((hp pa).mem pa n v).x rd w) hres

theorem NonCsrEffect.amo (kind : AtomicKind) (n : Nat) (rd rs1 rs2 : Reg) :
    NonCsrEffect i s (amo kind n rd rs1 rs2 s) := by
  rcases amo_cases kind n rd rs1 rs2 s with ⟨e, h⟩ | ⟨w, h⟩ | ⟨pa, w, v, -, h⟩ <;> rw [h]
  · exact .raise e
  · exact .x rd w
  · exact .plain ((Plain.refl.mem pa n v).x rd w) fun _ => writeX_resv _ _ _

theorem NonCsrEffect.fpEnabled (bits : Word) {k : State → State} (hk : NonCsrEffect i s (k s)) :
    NonCsrEffect i s (fpEnabled bits s k) := by
  unfold Machine.fpEnabled
  split
  · exact .raise _
  · exact hk

theorem NonCsrEffect.fpRounded (bits : Word) (rm : Rm) {k : Rm → State → State} (hk : ∀ m, NonCsrEffect i s (k m s)) :
    NonCsrEffect i s (fpRounded bits rm s k) := by
  rcases fpRounded_cases bits rm s k with h | ⟨m, -, -, h⟩ <;> rw [h]
  · exact .raise _
  · exact hk m

theorem NonCsrEffect.writeFResult (fmt : Fmt) (rd : FReg) (r : BitVec 64 × BitVec 5) :
    NonCsrEffect i s (writeFResult fmt rd r s) :=
  .plain (Plain.refl.writeFResult fmt rd r) fun _ => accrue_resv _ _

theorem NonCsrEffect.writeXResult (rd : Reg) (v : Word) (fl : BitVec 5) : NonCsrEffect i s (writeXResult rd v fl s) :=
  .plain (Plain.refl.writeXResult rd v fl) fun _ => (accrue_resv _ _).trans (writeX_resv _ _ _)

theorem NonCsrEffect.breakOrHalt : NonCsrEffect i s (breakOrHalt s) := by
  rcases breakOrHalt_cases s with ⟨-, h⟩ | ⟨-, h⟩ <;> rw [h]
  · exact .halt
  · exact .raise _

/-! ### The instructions -/

theorem NonCsrEffect.of_exec (hcsr : isCsrInstr i = false) (h : exec i s = .next t) : NonCsrEffect i s t := by
  cases i
  case csrrw | csrrs | csrrc | csrrwi | csrrsi | csrrci => cases hcsr
  case lb | lh | lw | lbu | lhu | lwu | ld | cLw | cLd | cLwsp | cLdsp => cases h; exact .loadX _ _ _ _
  case sb | sh | sw | sd | cSw | cSd | cSwsp | cSdsp => cases h; exact .storeBytes _ _ _
  case flw | fld | cFlw | cFld | cFlwsp | cFldsp => cases h; exact .loadF _ _ _ _
  case fsw | fsd | cFsw | cFsd | cFswsp | cFsdsp => cases h; exact .storeF _ _ _ _
  case lrW | lrD => cases h; exact .loadReserved rfl _ _ _
  case scW | scD => cases h; exact .storeConditional rfl _ _ _ _
  case amoswapW | amoaddW | amoxorW | amoandW | amoorW | amominW | amomaxW | amominuW | amomaxuW | amoswapD | amoaddD
      | amoxorD | amoandD | amoorD | amominD | amomaxD | amominuD | amomaxuD =>
    cases h; exact .amo _ _ _ _ _
  case faddS | fsubS | fmulS | fdivS | fsqrtS | fmaddS | fmsubS | fnmsubS | fnmaddS | faddD | fsubD | fmulD | fdivD |
      fsqrtD | fmaddD | fmsubD | fnmsubD | fnmaddD | fcvtSW | fcvtSWu | fcvtSL | fcvtSLu | fcvtDW | fcvtDWu | fcvtDL |
      fcvtDLu | fcvtSD | fcvtDS =>
    cases h; exact .fpRounded _ _ fun _ => .writeFResult _ _ _
  case fcvtWS | fcvtWuS | fcvtLS | fcvtLuS | fcvtWD | fcvtWuD | fcvtLD | fcvtLuD =>
    cases h; exact .fpRounded _ _ fun _ => .writeXResult _ _ _
  case fsgnjS | fsgnjnS | fsgnjxS | fsgnjD | fsgnjnD | fsgnjxD | fmvWX | fmvDX =>
    cases h; exact .fpEnabled _ (.plain (Plain.refl.writeFDirty _ _) fun _ => rfl)
  case fminS | fmaxS | fminD | fmaxD => cases h; exact .fpEnabled _ (.writeFResult _ _ _)
  case feqS | fltS | fleS | feqD | fltD | fleD => cases h; exact .fpEnabled _ (.writeXResult _ _ _)
  case fclassS | fclassD | fmvXW | fmvXD => cases h; exact .fpEnabled _ (.x _ _)
  case ebreak | cEbreak => cases h; exact .breakOrHalt
  case ecall | cIllegal => cases h; exact .raise _
  case fence | wfi => cases h; exact .refl
  case fenceI => cases h; exact .fence
  case sfenceVma =>
    cases h
    split
    · exact .raise _
    · exact .fence
  case sret =>
    cases h
    split
    · exact .raise _
    · exact .sret
  case mret =>
    cases h
    split
    · exact .mret
    · exact .raise _
  case beq | bne | blt | bge | bltu | bgeu | cBeqz | cBnez =>
    cases h; exact .plain (Plain.refl.branch _ _) fun _ => branch_resv _ _ _
  case cJ => cases h; exact .plain (Plain.refl.jumpRel _) fun _ => rfl
  case jal | cJal => cases h; exact .plain ((Plain.refl.jumpRel _).x _ _) fun _ => writeX_resv _ _ _
  case jalr | cJr | cJalr => cases h; exact .plain ((Plain.refl.jumpTo _).x _ _) fun _ => writeX_resv _ _ _
  -- every other instruction writes `x[rd]` and does nothing else
  all_goals cases h; exact .x _ _

/-- Settles O16: each effect leaves the fields, since a plain change reaches none of them and a trap and a return reach
only the trap registers, `mstatus`, the mode and `npc`. -/
theorem specialStateChangesOnlyByItsInstructions : Obligations.SpecialStateChangesOnlyByItsInstructions := by
  intro i s t hcsr h
  cases NonCsrEffect.of_exec hcsr h with
  | plain hp hr =>
    obtain ⟨x, f, npc, fcsr, mstatus, mem, resv, rfl⟩ := hp.frame
    simpa using hr
  | trap e hp hr =>
    obtain ⟨x, f, npc, fcsr, mstatus, mem, resv, rfl⟩ := hp.frame
    simpa using hr
  | halt | fence | mret | sret => simp

end Sys2Proof.Machine
end

section
/-!
System instructions and trap returns (44_system.md rules R550 to R559, 49_compressed.md rule R833, 30_encoding.md rule
R385).
-/

namespace Sys2Proof.Machine

/-- The trap value of a reserved parcel is the parcel, zero-extended (rule R370). -/
theorem bits_cIllegal (w : BitVec 16) : Instr.bits (.cIllegal w) = w.setWidth 64 := by
  simp [Instr.bits, encode, Encoded.bits]

/-- ECALL raises the exception of its mode (rule R552). -/
theorem raises_ecall (s : State) : Raises .ecall (ecallCause s.priv) 0 s := rfl

/-- Settles O32: each meaning at its mode and build. -/
theorem systemInstructionResults : Obligations.SystemInstructionResults := by
  intro fm pred succ rs1 rs2 rd imm w s
  refine ⟨?fence, ?wfi, ?fenceI, ?sfence, ?sfenceUser, ?ecallU, ?ecallS, ?ecallM, ?halts, ?breaks, ?reserved⟩
  case fence | wfi | fenceI => rfl
  case sfence => exact fun hu => congrArg Host.Outcome.next (if_neg hu)
  case sfenceUser => exact fun hu => congrArg Host.Outcome.next (if_pos hu)
  case ecallU | ecallS | ecallM =>
    intro hm
    simpa [hm, ecallCause] using raises_ecall s
  case halts =>
    intro hb
    have h : breakOrHalt s = haltHart s := if_pos hb
    exact ⟨congrArg _ h, congrArg _ h⟩
  case breaks =>
    intro hb
    have h : breakOrHalt s = deliver ⟨.breakpoint, s.pc⟩ s := if_neg (by simp [hb])
    exact ⟨congrArg _ h, congrArg _ h⟩
  case reserved => exact bits_cIllegal w ▸ rfl

/-! ### Trap returns -/

/-- The mode that MPP names has the number that MPP holds, which is never 2 (10_state.md rule R71). -/
theorem level_ofMpp : ∀ v : BitVec 2, v ≠ 2 → (Priv.ofMpp v).level = v.toNat := by decide

/-- Bit `k` of `mstatus` after MRET (rule R555). -/
theorem bit_returnM_mstatus (s : State) (k : Nat) (hk : k < 64) : bit (returnM s).mstatus k =
    if k = 3 then bit s.mstatus 7 else if k = 7 then true else if k = 11 ∨ k = 12 then false else bit s.mstatus k := by
  show bit (setField (setBit (setBit s.mstatus 3 (bit s.mstatus 7)) 7 true) 11 2 0) k = _
  rw [bit_setField (by decide) _ _ _ _ hk, bit_setBit _ _ _ _ hk, bit_setBit _ _ _ _ hk]
  by_cases hm : k = 11 ∨ k = 12
  · rcases hm with rfl | rfl <;> simp
  · rw [if_neg (show ¬(11 ≤ k ∧ k < 11 + 2) by omega), if_neg hm]
    by_cases h3 : k = 3
    · simp [h3]
    · simp [h3]

/-- Bit `k` of `mstatus` after SRET (rule R556). -/
theorem bit_returnS_mstatus (s : State) (k : Nat) (hk : k < 64) : bit (returnS s).mstatus k =
    if k = 1 then bit s.mstatus 5 else if k = 5 then true else if k = 8 ∨ k = 17 then false else bit s.mstatus k := by
  show bit (setBit (setBit (setBit (setBit s.mstatus 1 (bit s.mstatus 5)) 5 true) 8 false) 17 false) k = _
  simp only [bit_setBit _ _ _ _ hk]
  by_cases hm : k = 8 ∨ k = 17
  · rcases hm with rfl | rfl <;> simp
  · obtain ⟨h8, h17⟩ := not_or.1 hm
    rw [if_neg h17, if_neg h8, if_neg hm]
    by_cases h1 : k = 1
    · simp [h1]
    · simp [h1]

/-- Settles O33: MRET is `returnM` in Machine mode, SRET is `returnS` outside User mode. -/
theorem trapReturns : Obligations.TrapReturns := by
  intro s
  refine ⟨?mret, ?mretLower, ?sret, ?sretUser⟩
  case mret =>
    exact fun hm hmpp => ⟨returnM s, congrArg Host.Outcome.next (if_pos hm), level_ofMpp _ hmpp, rfl,
      bit_returnM_mstatus s, rfl⟩
  case mretLower => exact fun hm => congrArg Host.Outcome.next (if_neg hm)
  case sret =>
    exact fun hu => ⟨returnS s, congrArg Host.Outcome.next (if_neg hu), rfl, rfl, bit_returnS_mstatus s, rfl⟩
  case sretUser => exact fun hu => congrArg Host.Outcome.next (if_pos hu)

end Sys2Proof.Machine
end

section
/-!
The CSR instructions (44_system.md rules R570 to R578): the map of addresses both ways, the checks as numbers, and
`csrOp` where they pass and where one fails.
-/

namespace Sys2Proof.Machine

variable {i : Instr} {rd : Reg} {a : CsrAddr} {writes : Bool} {new : Word → Word} {c : Csr} {s : State}

/-! ### The address map -/

/-- Every row of the map is read from its address, in the builds its column gives (rule R66). -/
theorem ofAddr_of_row {xl : Xlen} : ∀ r ∈ csrRows, (r.2.1 = true → xl = .rv32) →
    Csr.ofAddr xl (BitVec.ofNat 12 r.1) = some r.2.2 := by
  cases xl <;> decide

/-- A `pmpcfg` register is read from its address, with XLEN = 64 the even ones (rule R86). -/
theorem ofAddr_pmpcfg {xl : Xlen} : ∀ n : BitVec 4, (xl = .rv64 → n.toNat % 2 = 0) →
    Csr.ofAddr xl (BitVec.ofNat 12 (0x3A0 + n.toNat)) = some (.pmpcfg n) := by
  cases xl <;> decide

/-- A `pmpaddr` register is read from its address (rule R87). -/
theorem ofAddr_pmpaddr {xl : Xlen} : ∀ n : BitVec 6,
    Csr.ofAddr xl (BitVec.ofNat 12 (0x3B0 + n.toNat)) = some (.pmpaddr n) := by
  cases xl <;> decide

theorem ofAddr_eq_some_iff {xl : Xlen} : Csr.ofAddr xl a = some c ↔ csrNamed xl a.toNat c := by
  refine ⟨csrNamed_of_ofAddr, fun h => ?_⟩
  have hofNat : BitVec.ofNat 12 a.toNat = a := by simp
  rw [← hofNat]
  rcases h with ⟨only32, hrow, hx⟩ | ⟨n, ha, rfl, hx⟩ | ⟨n, ha, rfl⟩
  · exact ofAddr_of_row _ hrow hx
  · exact ha ▸ ofAddr_pmpcfg n hx
  · exact ha ▸ ofAddr_pmpaddr n

/-! ### The checks -/

/-- Bits 9:8 of an address as a number (10_state.md rule R64). -/
theorem csrMinLevel_eq (a : CsrAddr) : csrMinLevel a = a.toNat / 256 % 4 := by
  rw [csrMinLevel, BitVec.extractLsb'_toNat, Nat.shiftRight_eq_div_pow]

/-- Bits 11:10 of an address are ones (10_state.md rule R63). -/
theorem csrReadOnly_iff (a : CsrAddr) : csrReadOnly a = true ↔ a.toNat / 1024 = 3 := by
  have := a.isLt
  rw [csrReadOnly, beq_iff_eq, ← BitVec.toNat_inj, BitVec.extractLsb'_toNat, Nat.shiftRight_eq_div_pow]
  show a.toNat / 1024 % 4 = 3 ↔ _
  omega

theorem isFpCsr_iff (c : Csr) : isFpCsr c = true ↔ c = .fflags ∨ c = .frm ∨ c = .fcsr := by
  simp [isFpCsr, or_assoc]

/-- The checks 2 to 5 of rule R570. -/
theorem csrAllowed_iff : csrAllowed a c writes s = true ↔
    a.toNat / 256 % 4 ≤ s.priv.level ∧ (writes = true → a.toNat / 1024 ≠ 3) ∧ counterAllowed c s = true
    ∧ (c = .fflags ∨ c = .frm ∨ c = .fcsr → mstatusFS s ≠ 0) := by
  rw [← isFpCsr_iff, ne_eq, ← csrReadOnly_iff, ← csrMinLevel_eq]
  unfold csrAllowed
  cases writes <;> cases isFpCsr c <;> simp [and_assoc]

/-! ### The operation -/

/-- Each of the six forms is `csrOp` with the operands that `csrForm` tables (rules R573 to R578). -/
theorem exec_of_csrForm (h : csrForm i s = some (rd, a, writes, new)) :
    exec i s = .next (csrOp i.bits rd a writes new s) := by
  have hwrites : ∀ r : BitVec 5, decide (r ≠ 0) = (r != 0) := fun r => by simp [bne, beq_eq_decide]
  cases i
  case csrrw | csrrwi => cases h; rfl
  case csrrs | csrrc | csrrsi | csrrci =>
    rw [csrForm, hwrites] at h
    cases h
    rfl
  all_goals cases h

/-- Where the checks pass: `rd` gets the old value, over the register's write where the form writes. -/
theorem exec_csr_of_allowed (h : csrForm i s = some (rd, a, writes, new)) (hc : Csr.ofAddr s.cfg.xlen a = some c)
    (ha : csrAllowed a c writes s = true) : exec i s = .next (writeX rd (csrRead c s)
      (if writes then csrWrite c (norm s.cfg.xlen (new (csrRead c s))) s else s)) := by
  rw [exec_of_csrForm h, csrOp, hc]
  exact congrArg Host.Outcome.next (if_pos ha)

/-- Where one check fails for the register that the address names, or it names none: IllegalInstr. -/
theorem raises_csr (h : csrForm i s = some (rd, a, writes, new))
    (hno : ∀ c, Csr.ofAddr s.cfg.xlen a = some c → csrAllowed a c writes s = false) : Raises i .illegalInstr i.bits s := by
  rw [Raises, exec_of_csrForm h, csrOp]
  cases hc : Csr.ofAddr s.cfg.xlen a with
  | none => rfl
  | some c => exact congrArg Host.Outcome.next (if_neg (by simp [hno c hc]))

/-- A CSR write reaches neither the general registers nor `npc` nor the build. -/
theorem csrWrite_keeps_regs (c : Csr) (v : Word) (s : State) :
    (csrWrite c v s).cfg = s.cfg ∧ (csrWrite c v s).x = s.x ∧ (csrWrite c v s).npc = s.npc := by
  cases c
  case stimecmp | stimecmph =>
    rcases stimecmpCallback_cases _ with ⟨-, e⟩ | ⟨-, e⟩ <;> rw [csrWrite, e] <;> exact ⟨rfl, rfl, rfl⟩
  all_goals exact ⟨rfl, rfl, rfl⟩

/-- Settles O34: `csrOp` where the checks pass; the register's write leaves `x`, memory and `npc` to the write of
`rd`. -/
theorem csrInstructionResults : Obligations.CsrInstructionResults := by
  intro i rd a writes new c s hform hc hlevel hro hcnt hfs
  have hexec := exec_csr_of_allowed hform hc (csrAllowed_iff.2 ⟨hlevel, hro, hcnt, hfs⟩)
  refine ⟨fun hw => ?reads, fun hw => ?writes⟩ <;> subst hw
  case reads => exact givesX_of hexec fun _ => .nat _ _
  case writes =>
    rw [if_pos rfl] at hexec
    set u := csrWrite c (norm s.cfg.xlen (new (csrRead c s))) s
    obtain ⟨hcfg, hx, hnpc⟩ : u.cfg = s.cfg ∧ u.x = s.x ∧ u.npc = s.npc := csrWrite_keeps_regs c _ s
    have hmem : u.mem = s.mem := (csrWrite_keeps_memory c _ s).1
    obtain ⟨hregs, -, hrest⟩ := onlyX_writeX rd (csrRead c s) u
    refine ⟨_, hexec, ?_, fun r hr => (hregs r hr).trans (readX_congr hx hcfg r), fun b => ?_, ?_, ?_⟩
    · exact regU_writeX_same (congrArg _ hcfg) (.nat _ _)
    · rw [writeX_mem, hmem]
    · simpa only [writeX_npc] using hrest
    · rw [writeX_npc, hnpc]

/-- Settles O35: the map is `ofAddr_eq_some_iff`, and each refusal fails `csrAllowed` or names nothing. -/
theorem csrInstructionsRefused : Obligations.CsrInstructionsRefused := by
  refine ⟨fun xl a c => ofAddr_eq_some_iff, fun xl a hno => ?absent, fun i rd a writes new s hform hbad => ?refused⟩
  case absent => exact Option.eq_none_iff_forall_ne_some.2 fun c hc => hno c (ofAddr_eq_some_iff.1 hc)
  case refused =>
    refine raises_csr hform fun c hc => ?_
    rw [← Bool.not_eq_true, csrAllowed_iff]
    rintro ⟨hlevel, hro, hcnt, hfs⟩
    rcases hbad with hno | hlow | ⟨hw, h3⟩ | ⟨c', hc', hbad⟩
    · exact hno c (ofAddr_eq_some_iff.1 hc)
    · omega
    · exact hro hw h3
    · obtain rfl : c' = c := Option.some.inj ((ofAddr_eq_some_iff.2 hc').symm.trans hc)
      rcases hbad with hgated | ⟨hfp, hoff⟩
      · simp [hgated] at hcnt
      · exact hfs hfp hoff

/-! ### Counter gating -/

/-- The addresses of `cycle`, `time`, `instret` and their high halves. -/
def counterAddrs : List Nat := [0xC00, 0xC01, 0xC02, 0xC80, 0xC81, 0xC82]

/-- A counter's address names a gated register, whose enable bit is the address's low bits (rule R571). -/
theorem gatedCounter_of_ofAddr (ha : a.toNat ∈ counterAddrs) {xl : Xlen} (hc : Csr.ofAddr xl a = some c) :
    gatedCounter c = some (a.toNat % 32) := by
  have hrows : ∀ r ∈ csrRows, r.1 ∈ counterAddrs → gatedCounter r.2.2 = some (r.1 % 32) := by decide
  have hhigh : ∀ n ∈ counterAddrs, 0x3B0 + 64 ≤ n := by decide
  have := hhigh _ ha
  rcases ofAddr_eq_some_iff.1 hc with ⟨only32, hrow, -⟩ | ⟨n, hn, -⟩ | ⟨n, hn, -⟩
  · exact hrows _ hrow ha
  · omega
  · omega

/-- What lets an access to a gated counter through (rule R571). -/
theorem counterAllowed_iff {k : Nat} (hg : gatedCounter c = some k) : counterAllowed c s = true ↔
    s.priv = .machine ∨ (s.priv = .supervisor ∧ bit s.mcounteren k = true)
    ∨ (s.priv = .user ∧ bit s.mcounteren k = true ∧ bit s.scounteren k = true) := by
  rw [counterAllowed, hg]
  cases s.priv <;> simp

/-- Settles O36: a gated access fails `csrAllowed` by `counterAllowed_iff`. -/
theorem counterGating : Obligations.CounterGating := by
  refine ⟨fun i rd a writes new s hform ha hgate => ?gated, fun c s h => ?ungated, fun a c s hc ha => ?through,
    fun cfg entry => ⟨rfl, rfl⟩⟩
  case gated =>
    refine raises_csr hform fun c hc => ?_
    rw [← Bool.not_eq_true, csrAllowed_iff, counterAllowed_iff (gatedCounter_of_ofAddr ha hc)]
    rintro ⟨-, -, hcnt, -⟩
    rcases hgate with ⟨hp, hm⟩ | ⟨hp, hm | hsc⟩
    · simp [hp, hm] at hcnt
    · simp [hp, hm] at hcnt
    · simp [hp, hsc] at hcnt
  case ungated =>
    rcases h with hp | rfl | rfl
    · cases hg : gatedCounter c with
      | none => rw [counterAllowed, hg]
      | some k => exact (counterAllowed_iff hg).2 (.inl hp)
    · rfl
    · rfl
  case through => exact counterAllowed_iff (gatedCounter_of_ofAddr ha hc)

/-! ### The floating-point CSRs -/

/-- The addresses 1, 2 and 3 name the floating-point CSRs. -/
theorem isFpCsr_of_addr (ha : a.toNat ∈ [1, 2, 3]) {xl : Xlen} : ∃ c, Csr.ofAddr xl a = some c ∧ isFpCsr c = true := by
  have hrows : ∀ n ∈ [1, 2, 3], ∃ r ∈ csrRows, r.1 = n ∧ r.2.1 = false ∧ isFpCsr r.2.2 = true := by decide
  obtain ⟨⟨n, only32, c⟩, hrow, rfl, h32, hfp⟩ := hrows _ ha
  exact ⟨c, ofAddr_eq_some_iff.2 (.inl ⟨only32, hrow, by simp_all⟩), hfp⟩

/-- A write of a floating-point CSR makes FS Dirty, so that SD reads 1 (rule R572). -/
theorem csrWrite_fp_mstatus (hc : isFpCsr c = true) (v : Word) (s : State) :
    (csrWrite c v s).mstatus = withSD s.cfg.xlen (setField s.mstatus 13 2 3) := by
  rcases (isFpCsr_iff c).1 hc with rfl | rfl | rfl <;> rfl

/-- FS and SD of a word in which FS has become Dirty. -/
theorem dirtied_fs_sd (xl : Xlen) (m : Word) : (withSD xl (setField m 13 2 3)).extractLsb' 13 2 = 3#2
    ∧ bit (withSD xl (setField m 13 2 3)) (xl.bits - 1) = true := by
  have hb := bit_dirtied xl m
  refine ⟨eq_of_beq ?_, ?_⟩
  · rw [fs_eq_dirty, hb 13 (by decide), hb 14 (by decide)]
    simp
  · rw [hb _ (by cases xl <;> decide)]
    simp

/-- The number of a word put beside `n` low bits. -/
theorem append_toNat {m n : Nat} (h : BitVec m) (l : BitVec n) : (h ++ l).toNat = h.toNat * 2 ^ n + l.toNat := by
  rw [BitVec.toNat_append, ← Nat.shiftLeft_add_eq_or_of_lt l.isLt, Nat.shiftLeft_eq]

/-- Each of the three reads and writes its own bits of the one register (10_state.md rule R105). -/
theorem fcsr_views (v : Word) (s : State) :
    (csrRead .fcsr s).toNat = s.fcsr.toNat ∧ (csrRead .fflags s).toNat = s.fcsr.toNat % 32
    ∧ (csrRead .frm s).toNat = s.fcsr.toNat / 32
    ∧ (csrWrite .fcsr v s).fcsr.toNat = v.toNat % 256
    ∧ (csrWrite .fflags v s).fcsr.toNat = s.fcsr.toNat / 32 * 32 + v.toNat % 32
    ∧ (csrWrite .frm v s).fcsr.toNat = v.toNat % 8 * 32 + s.fcsr.toNat % 32 := by
  have := s.fcsr.isLt
  refine ⟨?_, ?_, ?_, ?_, ?_, ?_⟩ <;>
    simp only [csrRead, csrWrite, dirtyFS_fcsr, append_toNat, BitVec.toNat_setWidth, BitVec.extractLsb'_toNat,
      Nat.shiftRight_eq_div_pow] <;> omega

/-- Settles O37: with FS Off the check fails; else the operation runs, and its write is that of a floating-point
CSR. -/
theorem fpCsrsFollowFs : Obligations.FpCsrsFollowFs := by
  intro i rd a writes new s hform ha
  obtain ⟨c, hc, hfp⟩ := isFpCsr_of_addr ha (xl := s.cfg.xlen)
  have hcases := (isFpCsr_iff c).1 hfp
  refine ⟨fun hoff => ?off, fun hfs => ?on, fun v => fcsr_views v s⟩
  case off =>
    exact csrInstructionsRefused.2.2 i rd a writes new s hform
      (.inr (.inr (.inr ⟨c, ofAddr_eq_some_iff.1 hc, .inr ⟨hcases, hoff⟩⟩)))
  case on =>
    have hlow : a.toNat / 256 % 4 = 0 ∧ a.toNat / 1024 = 0 := by
      have : ∀ n ∈ [1, 2, 3], n / 256 % 4 = 0 ∧ n / 1024 = 0 := by decide
      exact this _ ha
    have hcnt : counterAllowed c s = true := by rcases hcases with rfl | rfl | rfl <;> rfl
    refine ⟨_, exec_csr_of_allowed hform hc (csrAllowed_iff.2 ⟨?_, ?_, hcnt, fun _ => hfs⟩), fun hw => ?_, fun hw => ?_⟩
    · omega
    · omega
    · subst hw
      rw [if_pos rfl, mstatusFS, writeX_mstatus, csrWrite_fp_mstatus hfp]
      exact dirtied_fs_sd _ _
    · subst hw
      exact ⟨writeX_mstatus _ _ _, writeX_fcsr _ _ _⟩

end Sys2Proof.Machine
end

section
/-!
The words printed in the rules' examples, read by the decoder.
-/

namespace Sys2Proof

/-- Settles O3: eight closed words, run through the decoder. -/
theorem handWrittenWordsDecode : Obligations.HandWrittenWordsDecode := by
  unfold Obligations.HandWrittenWordsDecode
  decide

end Sys2Proof
end

section
/-!
Multiplication and division (45_muldiv.md): the number each instruction writes, in the words of the model's own quotient
and remainder, and the laws that tie these numbers together (rule R604).
-/

namespace Sys2Proof.Machine

/-! ### Operands and results as numbers -/

theorem signedX_eq_regS (r : Reg) (s : State) : signedX r s = regS r s := sx_toInt r s

theorem signedW_eq_lowS (r : Reg) (s : State) : signedW r s = lowS r s := sext32_toInt r s

/-- The remainder of a signed division that neither fails nor overflows is that of the truncated quotient. -/
theorem remS_eq_tmod (w : Nat) (a b : Int) :
    remS w a b = if b = 0 then a else if a = -2 ^ (w - 1) ∧ b = -1 then 0 else a.tmod b := by
  rw [remS, Int.tmod_def]

theorem natCast_divU (w a b : Nat) : (divU w a b : Int) = if b = 0 then 2 ^ w - 1 else (a : Int) / b := by
  unfold divU
  split
  · exact_mod_cast Nat.cast_pred (R := Int) (Nat.two_pow_pos w)
  · exact Int.natCast_ediv a b

theorem natCast_remU (a b : Nat) : (remU a b : Int) = if b = 0 then (a : Int) else (a : Int) % b := by
  unfold remU
  split
  · rfl
  · exact Int.natCast_emod a b

theorem ReadsAs.ofNat (xl : Xlen) (n : Nat) : ReadsAs xl (BitVec.ofNat 64 n) n := .of_eq (BitVec.ofInt_natCast 64 n).symm

/-! ### What the instructions give -/

theorem givesX_ofInt {i : Instr} {rd : Reg} {u v : Int} {s : State}
    (h : exec i s = .next (writeX rd (BitVec.ofInt 64 u) s)) (huv : u = v) : GivesX i rd v s :=
  givesX_of h fun _ => huv ▸ .ofInt _ u

theorem GivesX.of_eq {i : Instr} {rd : Reg} {u v : Int} {s : State} (h : GivesX i rd u s) (huv : u = v) :
    GivesX i rd v s := huv ▸ h

section
variable (rd rs1 rs2 : Reg) (s : State)

theorem givesX_mul : GivesX (.mul rd rs1 rs2) rd (regU rs1 s * regU rs2 s) s :=
  givesX_of rfl fun _ => (ReadsAs.regU rs1 s).mul (.regU rs2 s)

theorem givesX_mulh : GivesX (.mulh rd rs1 rs2) rd (regS rs1 s * regS rs2 s / 2 ^ s.cfg.xlen.bits) s :=
  givesX_ofInt rfl (by rw [signedX_eq_regS, signedX_eq_regS])

theorem givesX_mulhu : GivesX (.mulhu rd rs1 rs2) rd (regU rs1 s * regU rs2 s / 2 ^ s.cfg.xlen.bits) s :=
  givesX_ofInt rfl rfl

theorem givesX_div : GivesX (.div rd rs1 rs2) rd (divS s.cfg.xlen.bits (regS rs1 s) (regS rs2 s)) s :=
  givesX_ofInt rfl (by rw [signedX_eq_regS, signedX_eq_regS])

theorem givesX_divu : GivesX (.divu rd rs1 rs2) rd (divU s.cfg.xlen.bits (regU rs1 s) (regU rs2 s)) s :=
  givesX_of rfl fun _ => .ofNat _ _

theorem givesX_rem : GivesX (.rem rd rs1 rs2) rd (remS s.cfg.xlen.bits (regS rs1 s) (regS rs2 s)) s :=
  givesX_ofInt rfl (by rw [signedX_eq_regS, signedX_eq_regS])

theorem givesX_remu : GivesX (.remu rd rs1 rs2) rd (remU (regU rs1 s) (regU rs2 s)) s :=
  givesX_of rfl fun _ => .ofNat _ _

theorem givesX_divw : GivesX (.divw rd rs1 rs2) rd (divS 32 (lowS rs1 s) (lowS rs2 s)) s :=
  givesX_ofInt rfl (by rw [signedW_eq_lowS, signedW_eq_lowS])

theorem givesX_divuw : GivesX (.divuw rd rs1 rs2) rd (wrap32 (divU 32 (lowU rs1 s) (lowU rs2 s))) s :=
  givesX_of rfl fun _ => (ReadsAs.ofNat .rv32 _).word

theorem givesX_remw : GivesX (.remw rd rs1 rs2) rd (remS 32 (lowS rs1 s) (lowS rs2 s)) s :=
  givesX_ofInt rfl (by rw [signedW_eq_lowS, signedW_eq_lowS])

theorem givesX_remuw : GivesX (.remuw rd rs1 rs2) rd (wrap32 (remU (lowU rs1 s) (lowU rs2 s))) s :=
  givesX_of rfl fun _ => (ReadsAs.ofNat .rv32 _).word

end

/-- Settles O23: the products by `ReadsAs.mul` and by definition; each quotient and remainder is the model's own, whose
cases are the stated ones. All ones in 32 bits, the quotient of DIVUW by 0, sign-extends to -1. -/
theorem multiplyDivideResults : Obligations.MultiplyDivideResults := by
  intro rd rs1 rs2 s
  refine ⟨givesX_mul rd rs1 rs2 s, givesX_mulh rd rs1 rs2 s, ?mulhsu, givesX_mulhu rd rs1 rs2 s, ?mulw,
    givesX_div rd rs1 rs2 s, ?divu, ?rem, ?remu, givesX_divw rd rs1 rs2 s, ?divuw, ?remw, ?remuw⟩
  case mulhsu => exact givesX_ofInt rfl (by rw [signedX_eq_regS]; rfl)
  case mulw => exact givesX_of rfl fun _ => ((ReadsAs.lowU rs1 s).mul (.lowU rs2 s)).word
  case divu => exact (givesX_divu rd rs1 rs2 s).of_eq (natCast_divU ..)
  case rem => exact (givesX_rem rd rs1 rs2 s).of_eq (remS_eq_tmod ..)
  case remu => exact (givesX_remu rd rs1 rs2 s).of_eq (natCast_remU ..)
  case divuw => exact (givesX_divuw rd rs1 rs2 s).of_eq (by rw [natCast_divU, apply_ite wrap32]; rfl)
  case remw => exact (givesX_remw rd rs1 rs2 s).of_eq (remS_eq_tmod ..)
  case remuw => exact (givesX_remuw rd rs1 rs2 s).of_eq (by rw [natCast_remU, apply_ite wrap32])

/-! ### The answered register, read -/

theorem signedOf_emod (w : Nat) (v : Int) : signedOf w (v % 2 ^ w).toNat = v.bmod (2 ^ w) := by
  have h : (v % 2 ^ w).toNat = (BitVec.ofInt w v).toNat := by rw [BitVec.toNat_ofInt]; push_cast; rfl
  rw [h, signedOf_toInt, BitVec.toInt_ofInt]

section
variable {i : Instr} {rd : Reg} {v : Int} {s t : State}

theorem GivesX.regU_and_onlyX (h : GivesX i rd v s) (he : exec i s = .next t) :
    (regU rd t : Int) = (if rd = 0 then 0 else wrapX v s) ∧ OnlyX rd s t := by
  obtain ⟨t', he', hv, hframe, -⟩ := h
  obtain rfl : t = t' := Host.Outcome.next.inj (he.symm.trans he')
  exact ⟨hv, hframe⟩

theorem GivesX.regU_eq (h : GivesX i rd v s) (hrd : rd ≠ 0) (he : exec i s = .next t) :
    (regU rd t : Int) = v % 2 ^ s.cfg.xlen.bits :=
  (h.regU_and_onlyX he).1.trans (if_neg hrd)

theorem GivesX.cfg_eq (h : GivesX i rd v s) (he : exec i s = .next t) : t.cfg = s.cfg := by
  rw [(h.regU_and_onlyX he).2.rest]

theorem GivesX.regS_eq (h : GivesX i rd v s) (hrd : rd ≠ 0) (he : exec i s = .next t) :
    regS rd t = v.bmod (2 ^ s.cfg.xlen.bits) := by
  rw [regS, h.cfg_eq he, ← signedOf_emod, ← h.regU_eq hrd he, Int.toNat_natCast]

theorem GivesX.lowU_eq (h : GivesX i rd v s) (hrd : rd ≠ 0) (he : exec i s = .next t) :
    (lowU rd t : Int) = v % 2 ^ 32 := by
  rw [lowU, Int.natCast_emod, h.regU_eq hrd he]
  exact Int.emod_emod_of_dvd _ (pow_32_dvd _)

theorem GivesX.lowS_eq (h : GivesX i rd v s) (hrd : rd ≠ 0) (he : exec i s = .next t) :
    lowS rd t = v.bmod (2 ^ 32) := by
  rw [lowS, ← signedOf_emod, ← h.lowU_eq hrd he, Int.toNat_natCast]

end

/-! ### The laws of rule R604, in integers -/

theorem signedOf_bounds {w n : Nat} (hn : n < 2 ^ w) : -2 ^ (w - 1) ≤ signedOf w n ∧ signedOf w n < 2 ^ (w - 1) := by
  have h := signedOf_toInt (BitVec.ofNat w n)
  rw [BitVec.toNat_ofNat, Nat.mod_eq_of_lt hn] at h
  exact h ▸ ⟨BitVec.le_toInt _, BitVec.toInt_lt⟩

theorem signedOf_ne_zero {w n : Nat} (hn : n < 2 ^ w) (h0 : n ≠ 0) : signedOf w n ≠ 0 := by
  have : (n : Int) < 2 ^ w := by exact_mod_cast hn
  unfold signedOf
  split <;> omega

/-- A number that `w` signed bits hold is its own residue. -/
theorem bmod_two_pow_of_bounds {w : Nat} (hw : 0 < w) {v : Int} (hv : -2 ^ (w - 1) ≤ v ∧ v < 2 ^ (w - 1)) :
    v.bmod (2 ^ w) = v := by
  rw [← BitVec.toInt_ofInt]
  exact BitVec.toInt_ofInt_eq_self hw hv.1 hv.2

theorem bmod_two_pow_modEq (w : Nat) (v : Int) : v.bmod (2 ^ w) ≡ v [ZMOD 2 ^ w] := by
  exact_mod_cast Int.bmod_emod (x := v) (m := 2 ^ w)

theorem two_pow_eq_two_mul {w : Nat} (hw : 0 < w) : (2 : Int) ^ w = 2 * 2 ^ (w - 1) := by
  rw [mul_comm, pow_sub_one_mul hw.ne']

/-- Also where the quotient overflows: it is then the dividend -2^(w-1), whose negation is the same modulo 2^w. -/
theorem divS_mul_add_remS_modEq {w : Nat} (hw : 0 < w) (a : Int) {b : Int} (hb : b ≠ 0) :
    divS w a b * b + remS w a b ≡ a [ZMOD 2 ^ w] := by
  rw [divS, remS_eq_tmod, if_neg hb, if_neg hb]
  split
  case isTrue hover =>
    obtain ⟨rfl, rfl⟩ := hover
    rw [show (-2 ^ (w - 1) * -1 + 0 : Int) = -2 ^ (w - 1) + 2 ^ w by rw [two_pow_eq_two_mul hw]; ring]
    exact Int.add_emod_right _ _
  case isFalse => rw [Int.tdiv_mul_add_tmod]

theorem abs_remS_lt (w : Nat) (a : Int) {b : Int} (hb : b ≠ 0) : |remS w a b| < |b| := by
  rw [remS_eq_tmod, if_neg hb]
  split
  case isTrue => exact abs_pos.2 hb
  case isFalse =>
    rw [Int.abs_eq_natAbs, Int.abs_eq_natAbs, Int.natAbs_tmod]
    exact_mod_cast Nat.mod_lt _ (Int.natAbs_pos.2 hb)

theorem remS_eq_zero_or_neg_iff (w : Nat) (a : Int) {b : Int} (hb : b ≠ 0) :
    remS w a b = 0 ∨ (remS w a b < 0 ↔ a < 0) := by
  rw [remS_eq_tmod, if_neg hb]
  split
  case isTrue => exact .inl rfl
  case isFalse =>
    have hsign := Int.sign_tmod a b
    split at hsign
    case isTrue => exact .inl (Int.sign_eq_zero_iff_zero.1 hsign)
    case isFalse => exact .inr (by rw [← Int.sign_eq_neg_one_iff_neg, hsign, Int.sign_eq_neg_one_iff_neg])

/-- The three laws of the `w`-bit readings of quotient and remainder: the remainder, smaller than a `w`-bit divisor, is
read as it is, and the quotient modulo 2^w. -/
theorem signedDivision_laws {w : Nat} (hw : 0 < w) (a : Int) {b : Int} (hb : b ≠ 0)
    (hbounds : -2 ^ (w - 1) ≤ b ∧ b < 2 ^ (w - 1)) :
    let q := (divS w a b).bmod (2 ^ w)
    let r := (remS w a b).bmod (2 ^ w)
    (q * b + r) % 2 ^ w = a % 2 ^ w ∧ |r| < |b| ∧ (r = 0 ∨ (r < 0 ↔ a < 0)) := by
  have hlt := abs_remS_lt w a hb
  have hr : (remS w a b).bmod (2 ^ w) = remS w a b := by
    have hle : |b| ≤ 2 ^ (w - 1) := abs_le.2 ⟨hbounds.1, hbounds.2.le⟩
    obtain ⟨hlo, hhi⟩ := abs_lt.1 (hlt.trans_le hle)
    exact bmod_two_pow_of_bounds hw ⟨hlo.le, hhi⟩
  dsimp only
  rw [hr]
  exact ⟨(((bmod_two_pow_modEq w _).mul_right b).add_right _).trans (divS_mul_add_remS_modEq hw a hb), hlt,
    remS_eq_zero_or_neg_iff w a hb⟩

/-- The two laws of the `w`-bit readings of the unsigned quotient and remainder, neither of which exceeds the
dividend. -/
theorem unsignedDivision_laws {w a b q r : Nat} (ha : a < 2 ^ w) (hb : b ≠ 0)
    (hq : (q : Int) = (divU w a b : Int) % 2 ^ w) (hr : (r : Int) = (remU a b : Int) % 2 ^ w) :
    q * b + r = a ∧ r < b := by
  have hq' : q = a / b := by
    rw [divU, if_neg hb] at hq
    exact (Nat.mod_eq_of_lt ((Nat.div_le_self a b).trans_lt ha)) ▸ (by exact_mod_cast hq)
  have hr' : r = a % b := by
    rw [remU, if_neg hb] at hr
    exact (Nat.mod_eq_of_lt ((Nat.mod_le a b).trans_lt ha)) ▸ (by exact_mod_cast hr)
  rw [hq', hr']
  exact ⟨Nat.div_add_mod' a b, Nat.mod_lt a (Nat.pos_of_ne_zero hb)⟩

/-- The high half of the product of two signed numbers of `w` bits is one. -/
theorem signedHigh_bmod {w : Nat} (hw : 0 < w) {a b : Int} (ha : -2 ^ (w - 1) ≤ a ∧ a < 2 ^ (w - 1))
    (hb : -2 ^ (w - 1) ≤ b ∧ b < 2 ^ (w - 1)) : (a * b / 2 ^ w).bmod (2 ^ w) = a * b / 2 ^ w := by
  have hm : (0 : Int) < 2 ^ (w - 1) := by positivity
  have hab : |a * b| ≤ 2 ^ (w - 1) * 2 ^ (w - 1) := by
    rw [abs_mul]
    exact mul_le_mul (abs_le.2 ⟨ha.1, ha.2.le⟩) (abs_le.2 ⟨hb.1, hb.2.le⟩) (abs_nonneg b) hm.le
  obtain ⟨hlo, hhi⟩ := abs_le.1 hab
  apply bmod_two_pow_of_bounds hw
  have hw2 := two_pow_eq_two_mul hw
  constructor
  · exact (Int.le_ediv_iff_mul_le (by positivity)).2 (by rw [hw2]; nlinarith)
  · exact (Int.ediv_lt_iff_lt_mul (by positivity)).2 (by rw [hw2]; nlinarith)

/-- The high half of the product of two unsigned numbers of `w` bits is one. -/
theorem unsignedHigh_emod {w a b : Nat} (ha : a < 2 ^ w) (hb : b < 2 ^ w) :
    ((a : Int) * b / 2 ^ w) % 2 ^ w = (a : Int) * b / 2 ^ w := by
  have h : a * b / 2 ^ w < 2 ^ w := Nat.div_lt_of_lt_mul (Nat.mul_lt_mul'' ha hb)
  exact_mod_cast Nat.mod_eq_of_lt h

/-! ### The laws of rule R604, on the answered registers -/

theorem regS_bounds (r : Reg) (s : State) :
    -2 ^ (s.cfg.xlen.bits - 1) ≤ regS r s ∧ regS r s < 2 ^ (s.cfg.xlen.bits - 1) :=
  signedOf_bounds (regU_lt r s)

theorem lowU_lt (r : Reg) (s : State) : lowU r s < 2 ^ 32 := Nat.mod_lt _ (by decide)

theorem wrap32_emod (v : Int) : wrap32 v % 2 ^ 32 = v % 2 ^ 32 := by
  rw [wrap32, signedOf_emod]
  exact bmod_two_pow_modEq 32 v

section
variable {rd rs1 rs2 : Reg} {s q r : State} (hrd : rd ≠ 0)
include hrd

theorem signedDivision_of_exec (hq : exec (.div rd rs1 rs2) s = .next q) (hr : exec (.rem rd rs1 rs2) s = .next r)
    (hb : regU rs2 s ≠ 0) :
    (regS rd q * regS rs2 s + regS rd r) % 2 ^ s.cfg.xlen.bits = regS rs1 s % 2 ^ s.cfg.xlen.bits
    ∧ |regS rd r| < |regS rs2 s| ∧ (regS rd r = 0 ∨ (regS rd r < 0 ↔ regS rs1 s < 0)) := by
  rw [(givesX_div rd rs1 rs2 s).regS_eq hrd hq, (givesX_rem rd rs1 rs2 s).regS_eq hrd hr]
  exact signedDivision_laws (Xlen_bits_pos _) _ (signedOf_ne_zero (regU_lt rs2 s) hb) (regS_bounds rs2 s)

theorem unsignedDivision_of_exec (hq : exec (.divu rd rs1 rs2) s = .next q)
    (hr : exec (.remu rd rs1 rs2) s = .next r) (hb : regU rs2 s ≠ 0) :
    regU rd q * regU rs2 s + regU rd r = regU rs1 s ∧ regU rd r < regU rs2 s :=
  unsignedDivision_laws (regU_lt rs1 s) hb ((givesX_divu rd rs1 rs2 s).regU_eq hrd hq)
    ((givesX_remu rd rs1 rs2 s).regU_eq hrd hr)

theorem signedDivisionW_of_exec (hq : exec (.divw rd rs1 rs2) s = .next q)
    (hr : exec (.remw rd rs1 rs2) s = .next r) (hb : lowU rs2 s ≠ 0) :
    (lowS rd q * lowS rs2 s + lowS rd r) % 2 ^ 32 = lowS rs1 s % 2 ^ 32
    ∧ |lowS rd r| < |lowS rs2 s| ∧ (lowS rd r = 0 ∨ (lowS rd r < 0 ↔ lowS rs1 s < 0)) := by
  rw [(givesX_divw rd rs1 rs2 s).lowS_eq hrd hq, (givesX_remw rd rs1 rs2 s).lowS_eq hrd hr]
  exact signedDivision_laws (by decide) _ (signedOf_ne_zero (lowU_lt rs2 s) hb) (signedOf_bounds (lowU_lt rs2 s))

theorem unsignedDivisionW_of_exec (hq : exec (.divuw rd rs1 rs2) s = .next q)
    (hr : exec (.remuw rd rs1 rs2) s = .next r) (hb : lowU rs2 s ≠ 0) :
    lowU rd q * lowU rs2 s + lowU rd r = lowU rs1 s ∧ lowU rd r < lowU rs2 s :=
  unsignedDivision_laws (lowU_lt rs1 s) hb
    (((givesX_divuw rd rs1 rs2 s).lowU_eq hrd hq).trans (wrap32_emod _))
    (((givesX_remuw rd rs1 rs2 s).lowU_eq hrd hr).trans (wrap32_emod _))

/-- MUL gives the low half of the signed product too, since the two readings of a register agree modulo 2^XLEN. -/
theorem signedProduct_of_exec {lo hi : State} (hlo : exec (.mul rd rs1 rs2) s = .next lo)
    (hhi : exec (.mulh rd rs1 rs2) s = .next hi) :
    regS rs1 s * regS rs2 s = regS rd hi * 2 ^ s.cfg.xlen.bits + regU rd lo := by
  have hmod : regS rs1 s * regS rs2 s ≡ regU rs1 s * regU rs2 s [ZMOD 2 ^ s.cfg.xlen.bits] :=
    Int.ModEq.mul (regS_emod rs1 s) (regS_emod rs2 s)
  rw [(givesX_mul rd rs1 rs2 s).regU_eq hrd hlo, (givesX_mulh rd rs1 rs2 s).regS_eq hrd hhi,
    signedHigh_bmod (Xlen_bits_pos _) (regS_bounds rs1 s) (regS_bounds rs2 s), ← hmod]
  exact (Int.ediv_mul_add_emod _ _).symm

theorem unsignedProduct_of_exec {lo hi : State} (hlo : exec (.mul rd rs1 rs2) s = .next lo)
    (hhi : exec (.mulhu rd rs1 rs2) s = .next hi) :
    regU rs1 s * regU rs2 s = regU rd hi * 2 ^ s.cfg.xlen.bits + regU rd lo := by
  have h : (regU rs1 s : Int) * regU rs2 s = regU rd hi * 2 ^ s.cfg.xlen.bits + regU rd lo := by
    rw [(givesX_mul rd rs1 rs2 s).regU_eq hrd hlo, (givesX_mulhu rd rs1 rs2 s).regU_eq hrd hhi,
      unsignedHigh_emod (regU_lt rs1 s) (regU_lt rs2 s)]
    exact (Int.ediv_mul_add_emod _ _).symm
  exact_mod_cast h

end

/-- Settles O24: the laws of the written numbers, read back from the answered registers. -/
theorem divisionAndProductLaws : Obligations.DivisionAndProductLaws := by
  constructor
  · intro rd rs1 rs2 s q r qu ru lo hs hu hrd hq hr hqu hru hlo hhs hhu
    refine ⟨fun hb => ?_, signedProduct_of_exec hrd hlo hhs, unsignedProduct_of_exec hrd hlo hhu⟩
    obtain ⟨hident, hlt, hsign⟩ := signedDivision_of_exec hrd hq hr hb
    exact ⟨hident, hlt, hsign, unsignedDivision_of_exec hrd hqu hru hb⟩
  · intro rd rs1 rs2 s q r qu ru hrd hq hr hqu hru hb
    obtain ⟨hident, hlt, hsign⟩ := signedDivisionW_of_exec hrd hq hr hb
    exact ⟨hident, hlt, hsign, unsignedDivisionW_of_exec hrd hqu hru hb⟩

end Sys2Proof.Machine
end

section
/-!
Atomics (46_atomics.md): how LR, SC and an AMO end whose access passes its checks, one lemma for each way, and the
combinations of rule R630 as numbers.
-/

namespace Sys2Proof.Machine

variable {i : Instr} {rd rs1 rs2 : Reg} {n pa : Nat} {kind : AtomicKind} {s : State}

/-! ### What a write of one register over other changes leaves -/

theorem writeX_eq_x (rd : Reg) (w : Word) (s : State) : writeX rd w s = { s with x := (writeX rd w s).x } := by
  unfold writeX
  split <;> rfl

/-- The flag that SC writes. -/
theorem regU_writeX_flag (rd : Reg) (ok : Bool) (s : State) :
    regU rd (writeX rd (if ok then 0 else 1) s) = if rd = 0 ∨ ok = true then 0 else 1 := by
  have hflag : norm s.cfg.xlen (if ok then 0 else 1) = if ok then 0 else 1 := norm_of_lt _ (by cases ok <;> decide)
  rw [regU, readX_writeX_same, hflag, apply_ite BitVec.toNat]
  cases ok <;> simp

theorem ReadsAs.sextBytes {xl : Xlen} (hn : IsWidth n) {w : Word} (hw : w.toNat < 2 ^ (8 * n)) :
    ReadsAs xl (Machine.sextBytes n w) (signedOf (8 * n) w.toNat) :=
  .of_eq (sextBytes_eq hn hw)

/-! ### LR -/

theorem exec_lr {aq rl : BitVec 1} (h : (i = .lrW rd rs1 aq rl ∧ n = 4) ∨ (i = .lrD rd rs1 aq rl ∧ n = 8)) (s : State) :
    IsWidth n ∧ exec i s = .next (loadReserved n rd rs1 s) := by
  rcases h with ⟨rfl, rfl⟩ | ⟨rfl, rfl⟩ <;> exact ⟨by decide, rfl⟩

/-- The word that the bus answers to a load that succeeds. -/
theorem Loads.physRead {ea : Word} {v : Nat} (hn : IsWidth n) (h : Loads ea n pa v s) :
    ∃ w, Machine.physRead .data none pa n s = some w ∧ w.toNat = v ∧ v < 2 ^ (8 * n) := by
  obtain ⟨w, hw, hv⟩ := h.memRead hn
  cases hr : Machine.physRead .data none pa n s with
  | none =>
    rw [memRead_none h.passes hr] at hw
    cases hw
  | some u =>
    simp only [Machine.memRead, h.passes.dataAddr, hr] at hw
    cases hw
    exact ⟨w, rfl, hv⟩

theorem loadReserved_answered {w : Word} (hp : Passes .load (readX rs1 s) n pa s)
    (hr : physRead .data none pa n s = some w) :
    loadReserved n rd rs1 s = writeX rd (sextBytes n w) { s with resv := mapInsert pa w s.resv } := by
  simp only [loadReserved, hp.dataAddr, hr]

/-- Settles O46: the load's word, sign-extended in `rd` and as it is in the table. -/
theorem loadReservedResults : Obligations.LoadReservedResults := by
  intro rd rs1 aq rl pa v s i n hi hl
  obtain ⟨hn, hx⟩ := exec_lr hi s
  obtain ⟨w, hr, rfl, hlt⟩ := hl.physRead hn
  rw [loadReserved_answered hl.passes hr] at hx
  refine ⟨_, hx, regU_writeX_same rfl (.sextBytes hn hlt), ?entry, fun q hq => ?others,
    fun r hr => readX_writeX_other hr _ _, fun a => ?memory, ?rest⟩
  case entry => rw [writeX_resv, mapLookup_mapInsert_same, BitVec.ofNat_toNat, BitVec.setWidth_eq]
  case others => rw [writeX_resv, mapLookup_mapInsert_other hq]
  case memory => rw [writeX_mem]
  case rest => rw [writeX_eq_x]

/-! ### SC -/

theorem exec_sc {aq rl : BitVec 1} (h : (i = .scW rd rs1 rs2 aq rl ∧ n = 4) ∨ (i = .scD rd rs1 rs2 aq rl ∧ n = 8))
    (s : State) : IsWidth n ∧ exec i s = .next (storeConditional n rd rs1 rs2 s) := by
  rcases h with ⟨rfl, rfl⟩ | ⟨rfl, rfl⟩ <;> exact ⟨by decide, rfl⟩

section
variable {e : Word} (hp : Passes .store (readX rs1 s) n pa s)
include hp

theorem storeConditional_no_entry (he : mapLookup pa s.resv = none) :
    storeConditional n rd rs1 rs2 s = writeX rd 1 { s with resv := [] } := by
  simp only [storeConditional, hp.dataAddr, he]

theorem storeConditional_refused (he : mapLookup pa s.resv = some e)
    (hc : physCas pa n (truncBytes n e) (truncBytes n (readX rs2 s)) { s with resv := mapErase pa s.resv } = none) :
    storeConditional n rd rs1 rs2 s
      = deliver ⟨.storeAccessFault, readX rs1 s⟩ { s with resv := mapErase pa s.resv } := by
  simp only [storeConditional, hp.dataAddr, he, hc]

theorem storeConditional_answered {ok : Bool} {t : State} (he : mapLookup pa s.resv = some e)
    (hc : physCas pa n (truncBytes n e) (truncBytes n (readX rs2 s)) { s with resv := mapErase pa s.resv }
      = some (ok, t)) :
    storeConditional n rd rs1 rs2 s = writeX rd (if ok then 0 else 1) t := by
  simp only [storeConditional, hp.dataAddr, he, hc]

end

theorem physCas_none {e v : Word} (h : regionOf s.cfg.bus pa n = none) : physCas pa n e v s = none := by
  simp [physCas, h]

/-- The compare of SC in memory compares numbers. -/
theorem physCas_ram_leNat (hn : IsWidth n) (h : InRam pa n s) (e v : Word) :
    physCas pa n (truncBytes n e) v s = some (decide (leNat s.mem pa n = e.toNat % 2 ^ (8 * n)),
      { s with mem := if leNat s.mem pa n = e.toNat % 2 ^ (8 * n) then writeBytes s.mem pa n v else s.mem }) := by
  have heq : readBytes s.mem pa n = truncBytes n e ↔ leNat s.mem pa n = e.toNat % 2 ^ (8 * n) := by
    rw [← BitVec.toNat_inj, readBytes_toNat _ _ hn.le, truncBytes_toNat hn]
  simp only [physCas_ram h, heq]
  split <;> simp [*]

/-- Settles O47: without an entry by definition; with one, the compare-and-swap after the entry is consumed, by what the
address names. -/
theorem storeConditionalResults : Obligations.StoreConditionalResults := by
  intro rd rs1 rs2 aq rl pa s i n hi hp
  obtain ⟨hn, hx⟩ := exec_sc hi s
  refine ⟨fun hm => ?noEntry, fun e he => ⟨fun hr => ?ram, fun hd answer hans => ?device, fun hr => ?noRegion⟩⟩
  case noEntry =>
    rw [storeConditional_no_entry hp hm] at hx
    exact ⟨_, hx, (regU_writeX_flag rd false _).trans (by simp), fun r hr => readX_writeX_other hr _ _,
      fun a => by rw [writeX_mem], by rw [writeX_eq_x]⟩
  case ram =>
    rw [storeConditional_answered hp he (physCas_ram_leNat (s := { s with resv := mapErase pa s.resv }) hn hr e _)] at hx
    refine ⟨_, hx, ?entry, fun q hq => ?others, fun r hr => readX_writeX_other hr _ _, fun b hb => ?outside, ?rest,
      fun hv => ⟨?succeeds, ?stored⟩, fun hv => ⟨?fails, fun a => ?kept⟩⟩
    case entry => rw [writeX_resv, mapLookup_mapErase_same]
    case others => rw [writeX_resv, mapLookup_mapErase_other hq]
    case outside =>
      rw [writeX_mem]
      dsimp only
      split
      · exact readByte_writeBytes_outside hb _ _
      · rfl
    case rest => rw [writeX_eq_x]
    case succeeds => rw [regU_writeX_flag]; simp [hv]
    case stored => rw [writeX_mem, if_pos hv, leNat_writeBytes_same hn.le, truncBytes_toNat hn, Nat.mod_mod]; rfl
    case fails => rw [regU_writeX_flag]; simp [hv]
    case kept => rw [writeX_mem, if_neg hv]
  case device =>
    have hc : physCas pa n (truncBytes n e) (truncBytes n (readX rs2 s)) { s with resv := mapErase pa s.resv }
        = answer.map (fun ok => (ok, { s with resv := mapErase pa s.resv })) := by
      rw [physCas_device (s := { s with resv := mapErase pa s.resv }) hd, truncBytes_eq_ofNat hn,
        truncBytes_eq_ofNat hn, hans]
      rfl
    refine ⟨fun hnone => ?refused, fun ok hok => ?answered⟩
    case refused => rw [hx, storeConditional_refused hp he (hc.trans (by rw [hnone]; rfl))]
    case answered =>
      rw [storeConditional_answered hp he (hc.trans (by rw [hok]; rfl))] at hx
      exact ⟨_, hx, regU_writeX_flag _ _ _, fun r hr => readX_writeX_other hr _ _, fun a => by rw [writeX_mem],
        by rw [writeX_eq_x]⟩
  case noRegion => rw [hx, storeConditional_refused hp he (physCas_none hr)]

/-! ### LR and SC in a row -/

theorem InRam.congr {t : State} (h : InRam pa n s) (hc : t.cfg = s.cfg) : InRam pa n t := by
  rwa [InRam, hc]

theorem SameMemory.leNat_eq {t : State} (h : SameMemory s t) (a n : Nat) : leNat t.mem a n = leNat s.mem a n :=
  leNat_congr fun _ _ => h _

/-- Settles O49: the LR leaves an entry that holds memory's number, with which the first SC succeeds; it consumes the
entry, without which the second SC fails. -/
theorem lrThenScSucceedsOnce : Obligations.LrThenScSucceedsOnce := by
  intro lr sc1 sc2 n rd rs1 rd1 rs1' rs2 rd2 rs1'' rs2' pa s t u v hforms _ hrd2 hram hl hxl hp1 hx1 hp2 hx2
  obtain ⟨a, b, c, d, e, f, hlr, hsc1, hsc2⟩ : ∃ a b c d e f,
      ((lr = .lrW rd rs1 a b ∧ n = 4) ∨ (lr = .lrD rd rs1 a b ∧ n = 8))
      ∧ ((sc1 = .scW rd1 rs1' rs2 c d ∧ n = 4) ∨ (sc1 = .scD rd1 rs1' rs2 c d ∧ n = 8))
      ∧ ((sc2 = .scW rd2 rs1'' rs2' e f ∧ n = 4) ∨ (sc2 = .scD rd2 rs1'' rs2' e f ∧ n = 8)) := by
    rcases hforms with ⟨a, b, c, d, e, f, hlr, hsc1, hsc2, hn⟩ | ⟨a, b, c, d, e, f, hlr, hsc1, hsc2, hn⟩
    · exact ⟨a, b, c, d, e, f, .inl ⟨hlr, hn⟩, .inl ⟨hsc1, hn⟩, .inl ⟨hsc2, hn⟩⟩
    · exact ⟨a, b, c, d, e, f, .inr ⟨hlr, hn⟩, .inr ⟨hsc1, hn⟩, .inr ⟨hsc2, hn⟩⟩
  obtain ⟨t', hxt, -, hentry, -, -, hmem, hrest⟩ := loadReservedResults _ _ _ _ _ _ s _ _ hlr ⟨hl, .inl ⟨hram, rfl⟩⟩
  obtain rfl : t = t' := Host.Outcome.next.inj (hxl.symm.trans hxt)
  have hcfg : t.cfg = s.cfg := by rw [hrest]
  have hsame : leNat t.mem pa n = (BitVec.ofNat 64 (leNat s.mem pa n)).toNat % 2 ^ (8 * n) := by
    have hlt := leNat_lt s.mem pa n
    have hn : n ≤ 8 := (exec_lr hlr s).1.le
    have h64 : 2 ^ (8 * n) ≤ 2 ^ 64 := Nat.pow_le_pow_right (by decide) (by omega)
    rw [hmem.leNat_eq, BitVec.toNat_ofNat, Nat.mod_eq_of_lt (hlt.trans_le h64), Nat.mod_eq_of_lt hlt]
  obtain ⟨u', hxu, hconsumed, -, -, -, -, hsucceeds, -⟩ :=
    ((storeConditionalResults _ _ _ _ _ _ t _ _ hsc1 hp1).2 _ hentry).1 (hram.congr hcfg)
  obtain rfl : u = u' := Host.Outcome.next.inj (hx1.symm.trans hxu)
  obtain ⟨v', hxv, hfails, -⟩ := (storeConditionalResults _ _ _ _ _ _ u _ _ hsc2 hp2).1 hconsumed
  obtain rfl : v = v' := Host.Outcome.next.inj (hx2.symm.trans hxv)
  exact ⟨(hsucceeds hsame).1, hfails.trans (if_neg hrd2)⟩

/-! ### The combinations of rule R630 -/

/-- The sign extension of a value of `n` bytes has the value's signed reading. -/
theorem sextBytes_toInt (hn : IsWidth n) {v : Word} (hv : v.toNat < 2 ^ (8 * n)) :
    (sextBytes n v).toInt = signedOf (8 * n) v.toNat := by
  obtain ⟨hlo, hhi⟩ := signedOf_bounds hv
  rw [sextBytes_eq hn hv, BitVec.toInt_ofInt]
  have hpow : (2 : Int) ^ (8 * n - 1) ≤ 2 ^ 63 := by rcases hn with rfl | rfl | rfl | rfl <;> decide
  exact bmod_two_pow_of_bounds (by decide) ⟨by omega, by omega⟩

theorem combineNat_lt {w a b : Nat} (ha : a < 2 ^ w) (hb : b < 2 ^ w) : combineNat kind w a b < 2 ^ w := by
  cases kind
  case swap => exact hb
  case add => exact Nat.mod_lt _ (Nat.two_pow_pos w)
  case xor => exact Nat.xor_lt_two_pow ha hb
  case and => exact Nat.and_lt_two_pow a hb
  case or => exact Nat.or_lt_two_pow ha hb
  all_goals
    unfold combineNat
    dsimp only
    split <;> assumption

/-- On values of `n` bytes `combine` gives the number of the table. -/
theorem combine_toNat (hn : IsWidth n) {a b : Word} (ha : a.toNat < 2 ^ (8 * n)) (hb : b.toNat < 2 ^ (8 * n)) :
    (combine kind n a b).toNat = combineNat kind (8 * n) a.toNat b.toNat := by
  cases kind
  case swap => rfl
  case add =>
    have hdvd : 2 ^ (8 * n) ∣ 2 ^ 64 := Nat.pow_dvd_pow 2 (Nat.mul_le_mul_left 8 hn.le)
    rw [combine, combineNat, truncBytes_toNat hn, BitVec.toNat_add, Nat.mod_mod_of_dvd _ hdvd]
  case xor => exact BitVec.toNat_xor a b
  case and => exact BitVec.toNat_and a b
  case or => exact BitVec.toNat_or a b
  case min | max =>
    simp only [combine, combineNat, BitVec.slt, sextBytes_toInt hn ha, sextBytes_toInt hn hb, decide_eq_true_eq]
    exact apply_ite BitVec.toNat _ _ _
  case minu | maxu =>
    simp only [combine, combineNat, BitVec.ult, decide_eq_true_eq]
    exact apply_ite BitVec.toNat _ _ _

/-! ### AMOs -/

theorem exec_amo (h : amoForm i = some (n, kind, rd, rs1, rs2)) (s : State) :
    IsWidth n ∧ exec i s = .next (amo kind n rd rs1 rs2 s) := by
  cases i
  case amoswapW | amoaddW | amoxorW | amoandW | amoorW | amominW | amomaxW | amominuW | amomaxuW | amoswapD | amoaddD
      | amoxorD | amoandD | amoorD | amominD | amomaxD | amominuD | amomaxuD =>
    cases h
    exact ⟨by decide, rfl⟩
  all_goals cases h

theorem amo_refused (hp : Passes .store (readX rs1 s) n pa s)
    (ha : physAtomic kind pa n (truncBytes n (readX rs2 s)) s = none) :
    amo kind n rd rs1 rs2 s = deliver ⟨.storeAccessFault, readX rs1 s⟩ s := by
  simp only [amo, hp.dataAddr, ha]

theorem amo_answered {old : Word} {t : State} (hp : Passes .store (readX rs1 s) n pa s)
    (ha : physAtomic kind pa n (truncBytes n (readX rs2 s)) s = some (old, t)) :
    amo kind n rd rs1 rs2 s = writeX rd (sextBytes n old) t := by
  simp only [amo, hp.dataAddr, ha]

/-- The number in memory after an atomic operation there. -/
theorem leNat_writeBytes_combine (hn : IsWidth n) (m : List Host.Cell) (v : Word) :
    leNat (writeBytes m pa n (combine kind n (readBytes m pa n) (truncBytes n v))) pa n
      = combineNat kind (8 * n) (leNat m pa n) (v.toNat % 2 ^ (8 * n)) := by
  have hsrc : v.toNat % 2 ^ (8 * n) < 2 ^ (8 * n) := Nat.mod_lt _ (Nat.two_pow_pos _)
  have hcomb := combine_toNat (kind := kind) hn (readBytes_lt m pa hn.le) ((truncBytes_toNat hn v).trans_lt hsrc)
  rw [readBytes_toNat m pa hn.le, truncBytes_toNat hn] at hcomb
  rw [leNat_writeBytes_same hn.le, hcomb, Nat.mod_eq_of_lt (combineNat_lt (leNat_lt m pa n) hsrc)]

/-- Settles O48: memory holds the combination of its old number, or the device answers the old number or refuses. -/
theorem amoResults : Obligations.AmoResults := by
  intro i n kind rd rs1 rs2 pa s hi hp
  obtain ⟨hn, hx⟩ := exec_amo hi s
  refine ⟨fun hr => ?ram, fun hd answer hans => ?device⟩
  case ram =>
    rw [amo_answered hp (physAtomic_ram hr)] at hx
    have hold := readBytes_toNat s.mem pa hn.le
    refine ⟨_, hx, ?old, ?combined, fun r hr => readX_writeX_other hr _ _, ?outside, ?rest⟩
    case old => exact hold ▸ regU_writeX_same rfl (.sextBytes hn (readBytes_lt _ _ hn.le))
    case combined => rw [writeX_mem]; exact leNat_writeBytes_combine hn _ _
    case outside => exact sameMemoryOutside_writeBytes s pa n _ _ (writeX_mem _ _ _)
    case rest => rw [writeX_eq_x]
  case device =>
    have hc : physAtomic kind pa n (truncBytes n (readX rs2 s)) s = answer.map (fun old => (truncBytes n old, s)) := by
      rw [physAtomic_device hd, truncBytes_eq_ofNat hn, hans]
      rfl
    refine ⟨fun hnone => ?refused, fun old hok => ?answered⟩
    case refused => exact hx.trans (congrArg _ (amo_refused hp (hc.trans (by rw [hnone]; rfl))))
    case answered =>
      have hx' := hx.trans (congrArg _ (amo_answered hp (hc.trans (by rw [hok]; rfl))))
      have hlow : (truncBytes n old).toNat = old.toNat % 2 ^ (8 * n) := truncBytes_toNat hn old
      exact givesX_of hx' fun _ => hlow ▸ .sextBytes hn (hlow ▸ Nat.mod_lt _ (Nat.two_pow_pos _))

end Sys2Proof.Machine
end

section
/-!
The floating-point status (47_float_f.md rules R663 to R665): the checks that a floating-point instruction starts with,
and what an instruction that is no CSR instruction can do to `fcsr`, the `f` registers and FS.
-/

namespace Sys2Proof.Machine

variable {i : Instr} {s t : State} {bits : Word}

/-! ### The checks -/

theorem fpEnabled_off (hfs : mstatusFS s = 0) (k : State → State) : fpEnabled bits s k = illegal bits s := if_pos hfs

theorem fpEnabled_on (hfs : mstatusFS s ≠ 0) (k : State → State) : fpEnabled bits s k = k s := if_neg hfs

theorem fpRounded_reserved {rm : Rm} (h : 5 ≤ (if rm = 7 then s.fcsr.extractLsb' 5 3 else rm).toNat)
    (k : Rm → State → State) : fpRounded bits rm s k = illegal bits s := by
  rcases fpRounded_cases bits rm s k with hk | ⟨m, -, ⟨rfl, hlt⟩, -⟩
  · exact hk
  · omega

theorem fpRounded_legal (hfs : mstatusFS s ≠ 0) {rm m : Rm} (hm : RoundsBy rm m s) (k : Rm → State → State) :
    fpRounded bits rm s k = k m s := by
  have heff : effRm rm s = some m := by
    obtain ⟨rfl, hlt⟩ := hm
    exact if_pos hlt
  rw [fpRounded, fpEnabled_on hfs, heff]

/-- An instruction with a rounding-mode field starts with both checks. -/
theorem exec_fpRounded {rm : Rm} (h : roundingField i = some rm) (s : State) :
    ∃ k, exec i s = .next (fpRounded i.bits rm s k) := by
  cases i
  case faddS | fsubS | fmulS | fdivS | fsqrtS | fmaddS | fmsubS | fnmsubS | fnmaddS | faddD | fsubD | fmulD | fdivD
      | fsqrtD | fmaddD | fmsubD | fnmsubD | fnmaddD | fcvtSW | fcvtSWu | fcvtSL | fcvtSLu | fcvtDW | fcvtDWu | fcvtDL
      | fcvtDLu | fcvtSD | fcvtDS | fcvtWS | fcvtWuS | fcvtLS | fcvtLuS | fcvtWD | fcvtWuD | fcvtLD | fcvtLuD =>
    cases h
    exact ⟨_, rfl⟩
  all_goals cases h

/-- A floating-point instruction starts with the enable check. -/
theorem exec_fpEnabled (h : isFp i = true) (s : State) : ∃ k, exec i s = .next (fpEnabled i.bits s k) := by
  cases hr : roundingField i with
  | some rm =>
    obtain ⟨k, hk⟩ := exec_fpRounded hr s
    exact ⟨_, hk⟩
  | none =>
    cases i
    case flw | fsw | fld | fsd | fsgnjS | fsgnjnS | fsgnjxS | fsgnjD | fsgnjnD | fsgnjxD | fminS | fmaxS | fminD | fmaxD
        | feqS | fltS | fleS | feqD | fltD | fleD | fclassS | fclassD | fmvXW | fmvWX | fmvXD | fmvDX | cFlw | cFsw | cFld
        | cFsd | cFlwsp | cFswsp | cFldsp | cFsdsp =>
      exact ⟨_, rfl⟩
    -- every other instruction is a floating-point one by its rounding-mode field alone
    all_goals exact absurd (h.symm.trans (congrArg Option.isSome hr)) (by decide)

/-- Settles O50: the enable check comes first in every floating-point instruction, and the rounding-mode check next. -/
theorem fpGuards : Obligations.FpGuards := by
  intro i s
  refine ⟨fun hfp hfs => ?off, fun rm hrm h5 => ?reserved⟩
  case off =>
    obtain ⟨k, hk⟩ := exec_fpEnabled hfp s
    exact hk.trans (congrArg _ (fpEnabled_off hfs k))
  case reserved =>
    obtain ⟨k, hk⟩ := exec_fpRounded hrm s
    exact hk.trans (congrArg _ (fpRounded_reserved h5 k))

/-! ### What leaves the floating-point state alone -/

/-- `fcsr`, the `f` registers and FS are as before. -/
structure SameFp (s t : State) : Prop where
  fcsr : t.fcsr = s.fcsr
  f    : t.f = s.f
  fs   : mstatusFS t = mstatusFS s

theorem SameFp.refl : SameFp s s := ⟨rfl, rfl, rfl⟩

theorem SameFp.of_mstatus (hc : t.fcsr = s.fcsr) (hf : t.f = s.f) (hm : t.mstatus = s.mstatus) : SameFp s t :=
  ⟨hc, hf, by rw [mstatusFS, mstatusFS, hm]⟩

/-- FS is bits 13 and 14 of `mstatus` (10_state.md rule R70). -/
theorem mstatusFS_congr (h13 : bit t.mstatus 13 = bit s.mstatus 13) (h14 : bit t.mstatus 14 = bit s.mstatus 14) :
    mstatusFS t = mstatusFS s := by
  unfold mstatusFS
  rw [extractLsb'_eq_iff]
  intro k hk
  have hs := (extractLsb'_eq_iff s.mstatus 13 _).1 rfl k hk
  rw [← hs]
  interval_cases k
  · exact h13
  · exact h14

theorem bit_deliver_mstatus (e : Exn) (s : State) {k : Nat} (hk : k = 13 ∨ k = 14) :
    bit (deliver e s).mstatus k = bit s.mstatus k := by
  have hlt : k < 64 := by omega
  unfold deliver
  dsimp only
  split
  · show bit (setBit (setBit (setBit s.mstatus 8 _) 5 _) 1 _) k = _
    rw [bit_setBit _ _ _ _ hlt, bit_setBit _ _ _ _ hlt, bit_setBit _ _ _ _ hlt, if_neg (by omega), if_neg (by omega),
      if_neg (by omega)]
  · show bit (setBit (setBit (setField s.mstatus 11 2 _) 7 _) 3 _) k = _
    rw [bit_setBit _ _ _ _ hlt, bit_setBit _ _ _ _ hlt, bit_setField (by decide) _ _ _ _ hlt, if_neg (by omega),
      if_neg (by omega), if_neg (by omega)]

theorem SameFp.deliver (e : Exn) (h : SameFp s t) : SameFp s (deliver e t) :=
  ⟨(deliver_fcsr t e).trans h.fcsr, (deliver_f t e).trans h.f,
    (mstatusFS_congr (bit_deliver_mstatus e t (.inl rfl)) (bit_deliver_mstatus e t (.inr rfl))).trans h.fs⟩

theorem SameFp.writeX (rd : Reg) (v : Word) (h : SameFp s t) : SameFp s (writeX rd v t) :=
  ⟨(writeX_fcsr _ _ _).trans h.fcsr, (writeX_f _ _ _).trans h.f, by rw [← h.fs, mstatusFS, writeX_mstatus]; rfl⟩

theorem SameFp.returnM (s : State) : SameFp s (returnM s) :=
  ⟨rfl, rfl, mstatusFS_congr (bit_returnM_mstatus s 13 (by decide)) (bit_returnM_mstatus s 14 (by decide))⟩

theorem SameFp.returnS (s : State) : SameFp s (returnS s) :=
  ⟨rfl, rfl, mstatusFS_congr (bit_returnS_mstatus s 13 (by decide)) (bit_returnS_mstatus s 14 (by decide))⟩

/-! ### The shared operations that leave it alone -/

theorem SameFp.loadX (rd : Reg) (ea : Word) (n : Nat) (ext : Ext) (s : State) : SameFp s (loadX rd ea n ext s) := by
  rcases loadX_cases rd ea n ext s with ⟨e, h⟩ | ⟨v, h⟩ <;> rw [h]
  · exact .deliver e .refl
  · exact .writeX rd v .refl

theorem SameFp.storeBytes (ea : Word) (n : Nat) (v : Word) (s : State) : SameFp s (storeBytes ea n v s) := by
  rcases storeBytes_cases ea n v s with ⟨e, h⟩ | h | ⟨pa, -, h⟩ <;> rw [h]
  · exact .deliver e .refl
  · exact .refl
  · exact .of_mstatus rfl rfl rfl

theorem SameFp.loadReserved (n : Nat) (rd rs1 : Reg) (s : State) : SameFp s (loadReserved n rd rs1 s) := by
  rcases loadReserved_cases n rd rs1 s with ⟨e, h⟩ | ⟨pa, v, w, h⟩ <;> rw [h]
  · exact .deliver e .refl
  · exact .writeX rd w (.of_mstatus rfl rfl rfl)

theorem SameFp.storeConditional (n : Nat) (rd rs1 rs2 : Reg) (s : State) :
    SameFp s (storeConditional n rd rs1 rs2 s) := by
  rcases storeConditional_cases n rd rs1 rs2 s with ⟨e, h⟩ | h | ⟨pa, -, ⟨e, h⟩ | ⟨w, h⟩ | ⟨w, v, h⟩⟩ <;> rw [h]
  · exact .deliver e .refl
  · exact .writeX rd 1 (.of_mstatus rfl rfl rfl)
  · exact .deliver e (.of_mstatus rfl rfl rfl)
  · exact .writeX rd w (.of_mstatus rfl rfl rfl)
  · exact .writeX rd w (.of_mstatus rfl rfl rfl)

theorem SameFp.amo (kind : AtomicKind) (n : Nat) (rd rs1 rs2 : Reg) (s : State) :
    SameFp s (amo kind n rd rs1 rs2 s) := by
  rcases amo_cases kind n rd rs1 rs2 s with ⟨e, h⟩ | ⟨w, h⟩ | ⟨pa, w, v, -, h⟩ <;> rw [h]
  · exact .deliver e .refl
  · exact .writeX rd w .refl
  · exact .writeX rd w (.of_mstatus rfl rfl rfl)

theorem SameFp.breakOrHalt (s : State) : SameFp s (breakOrHalt s) := by
  rcases breakOrHalt_cases s with ⟨-, h⟩ | ⟨-, h⟩ <;> rw [h]
  · exact .of_mstatus rfl rfl rfl
  · exact .deliver _ .refl

/-- An instruction that FS does not enable, and that is no CSR instruction, leaves the floating-point state alone. -/
theorem exec_sameFp (hfp : isFp i = false) (hcsr : isCsrInstr i = false) (h : exec i s = .next t) : SameFp s t := by
  cases i
  case csrrw | csrrs | csrrc | csrrwi | csrrsi | csrrci => cases hcsr
  case flw | fsw | fld | fsd | fsgnjS | fsgnjnS | fsgnjxS | fsgnjD | fsgnjnD | fsgnjxD | fminS | fmaxS | fminD | fmaxD
      | feqS | fltS | fleS | feqD | fltD | fleD | fclassS | fclassD | fmvXW | fmvWX | fmvXD | fmvDX | cFlw | cFsw | cFld
      | cFsd | cFlwsp | cFswsp | cFldsp | cFsdsp | faddS | fsubS | fmulS | fdivS | fsqrtS | fmaddS | fmsubS | fnmsubS
      | fnmaddS | faddD | fsubD | fmulD | fdivD | fsqrtD | fmaddD | fmsubD | fnmsubD | fnmaddD | fcvtSW | fcvtSWu | fcvtSL
      | fcvtSLu | fcvtDW | fcvtDWu | fcvtDL | fcvtDLu | fcvtSD | fcvtDS | fcvtWS | fcvtWuS | fcvtLS | fcvtLuS | fcvtWD
      | fcvtWuD | fcvtLD | fcvtLuD => cases hfp
  case lb | lh | lw | lbu | lhu | lwu | ld | cLw | cLd | cLwsp | cLdsp => cases h; exact .loadX _ _ _ _ s
  case sb | sh | sw | sd | cSw | cSd | cSwsp | cSdsp => cases h; exact .storeBytes _ _ _ s
  case lrW | lrD => cases h; exact .loadReserved _ _ _ s
  case scW | scD => cases h; exact .storeConditional _ _ _ _ s
  case amoswapW | amoaddW | amoxorW | amoandW | amoorW | amominW | amomaxW | amominuW | amomaxuW | amoswapD | amoaddD
      | amoxorD | amoandD | amoorD | amominD | amomaxD | amominuD | amomaxuD =>
    cases h; exact .amo _ _ _ _ _ s
  case ebreak | cEbreak => cases h; exact .breakOrHalt s
  case ecall | cIllegal => cases h; exact .deliver _ .refl
  case sret =>
    cases h
    split
    · exact .deliver _ .refl
    · exact .returnS s
  case mret =>
    cases h
    split
    · exact .returnM s
    · exact .deliver _ .refl
  case sfenceVma =>
    cases h
    split
    · exact .deliver _ .refl
    · exact .of_mstatus rfl rfl rfl
  case beq | bne | blt | bge | bltu | bgeu | cBeqz | cBnez =>
    cases h; exact .of_mstatus (branch_fcsr _ _ _) (branch_f _ _ _) (branch_mstatus _ _ _)
  case fence | wfi | fenceI | cJ => cases h; exact .of_mstatus rfl rfl rfl
  case jal | cJal | jalr | cJr | cJalr => cases h; exact .writeX _ _ (.of_mstatus rfl rfl rfl)
  -- every other instruction writes `x[rd]` and does nothing else
  all_goals cases h; exact .writeX _ _ .refl

/-! ### Accrued flags -/

/-- Flags are added to `fcsr`, none is cleared, and the rounding mode stays (rule R664). -/
def Accrues (s t : State) : Prop := ∃ fl : BitVec 5, t.fcsr = s.fcsr ||| fl.setWidth 8

theorem Accrues.of_eq (h : t.fcsr = s.fcsr) : Accrues s t := ⟨0, by rw [h]; exact BitVec.or_zero.symm⟩

theorem Accrues.deliver (e : Exn) (s : State) : Accrues s (deliver e s) := .of_eq (deliver_fcsr s e)

/-- What accruing flags does: it adds them, and makes FS Dirty where there are any. -/
theorem accrue_eq (fl : BitVec 5) (s : State) : accrue fl s =
    { s with
      fcsr := s.fcsr ||| fl.setWidth 8
      mstatus := if fl = 0 then s.mstatus else withSD s.cfg.xlen (setField s.mstatus 13 2 3) } := by
  unfold accrue
  by_cases hfl : fl = 0
  · subst hfl
    simp
  · simp only [hfl, if_false]
    exact if_neg hfl

theorem accrue_fcsr (fl : BitVec 5) (s : State) : (accrue fl s).fcsr = s.fcsr ||| fl.setWidth 8 := by rw [accrue_eq]

theorem Accrues.writeFResult (fmt : Fmt) (rd : FReg) (r : BitVec 64 × BitVec 5) (s : State) :
    Accrues s (writeFResult fmt rd r s) := ⟨r.2, accrue_fcsr _ _⟩

theorem Accrues.writeXResult (rd : Reg) (v : Word) (fl : BitVec 5) (s : State) : Accrues s (writeXResult rd v fl s) :=
  ⟨fl, by rw [Machine.writeXResult, accrue_fcsr, writeX_fcsr]⟩

theorem Accrues.fpEnabled {k : State → State} (hk : Accrues s (k s)) : Accrues s (fpEnabled bits s k) := by
  unfold Machine.fpEnabled
  split
  · exact .deliver _ s
  · exact hk

theorem Accrues.fpRounded {rm : Rm} {k : Rm → State → State} (hk : ∀ m, Accrues s (k m s)) :
    Accrues s (fpRounded bits rm s k) := by
  rcases fpRounded_cases bits rm s k with h | ⟨m, -, -, h⟩ <;> rw [h]
  · exact .deliver _ s
  · exact hk m

theorem Accrues.loadF (fmt : Fmt) (rd : FReg) (ea : Word) (s : State) : Accrues s (loadF bits fmt rd ea s) := by
  rcases loadF_cases bits fmt rd ea s with ⟨e, h⟩ | ⟨v, -, h⟩ <;> rw [h]
  · exact .deliver e s
  · exact .of_eq rfl

theorem Accrues.storeF (fmt : Fmt) (rs2 : FReg) (ea : Word) (s : State) : Accrues s (storeF bits fmt rs2 ea s) :=
  .fpEnabled (.of_eq (SameFp.storeBytes _ _ _ s).fcsr)

/-- A floating-point instruction only adds flags. -/
theorem exec_accrues (hfp : isFp i = true) (h : exec i s = .next t) : Accrues s t := by
  cases i
  case flw | fld | cFlw | cFld | cFlwsp | cFldsp => cases h; exact .loadF _ _ _ s
  case fsw | fsd | cFsw | cFsd | cFswsp | cFsdsp => cases h; exact .storeF _ _ _ s
  case faddS | fsubS | fmulS | fdivS | fsqrtS | fmaddS | fmsubS | fnmsubS | fnmaddS | faddD | fsubD | fmulD | fdivD |
      fsqrtD | fmaddD | fmsubD | fnmsubD | fnmaddD | fcvtSW | fcvtSWu | fcvtSL | fcvtSLu | fcvtDW | fcvtDWu | fcvtDL |
      fcvtDLu | fcvtSD | fcvtDS =>
    cases h; exact .fpRounded fun _ => .writeFResult _ _ _ s
  case fcvtWS | fcvtWuS | fcvtLS | fcvtLuS | fcvtWD | fcvtWuD | fcvtLD | fcvtLuD =>
    cases h; exact .fpRounded fun _ => .writeXResult _ _ _ s
  case fsgnjS | fsgnjnS | fsgnjxS | fsgnjD | fsgnjnD | fsgnjxD | fmvWX | fmvDX => cases h; exact .fpEnabled (.of_eq rfl)
  case fminS | fmaxS | fminD | fmaxD => cases h; exact .fpEnabled (.writeFResult _ _ _ s)
  case feqS | fltS | fleS | feqD | fltD | fleD => cases h; exact .fpEnabled (.writeXResult _ _ _ s)
  case fclassS | fclassD | fmvXW | fmvXD => cases h; exact .fpEnabled (.of_eq (writeX_fcsr _ _ _))
  all_goals cases hfp

/-- Added flags clear none and lie below the rounding mode (10_state.md rule R105). -/
theorem Accrues.keeps (h : Accrues s t) :
    t.fcsr &&& s.fcsr = s.fcsr ∧ t.fcsr.extractLsb' 5 3 = s.fcsr.extractLsb' 5 3 := by
  obtain ⟨fl, h⟩ := h
  rw [h]
  refine ⟨BitVec.eq_of_getLsbD_eq fun k _ => ?_, BitVec.eq_of_getLsbD_eq fun k hk => ?_⟩
  · rw [BitVec.getLsbD_and, BitVec.getLsbD_or]
    cases s.fcsr.getLsbD k <;> simp
  · simp

/-- Settles O17: a floating-point instruction only adds flags, any other leaves the floating-point state alone. -/
theorem flagsAreSticky : Obligations.FlagsAreSticky := by
  intro i s t hcsr h
  cases hfp : isFp i with
  | false =>
    obtain ⟨hc, hf, hm⟩ := exec_sameFp hfp hcsr h
    exact ⟨(Accrues.of_eq hc).keeps.1, (Accrues.of_eq hc).keeps.2, fun _ => ⟨hc, hf, hm⟩⟩
  | true => exact ⟨(exec_accrues hfp h).keeps.1, (exec_accrues hfp h).keeps.2, fun hf => nomatch hf⟩

end Sys2Proof.Machine
end

section
/-!
What a floating-point instruction gives (47_float_f.md rules R663, R664, R670, R671, 48_float_d.md rules R721, R722):
a register with FS Dirty, an integer register with flags, or a store; and each load, store and arithmetic form as one of
these.
-/

namespace Sys2Proof.Machine

variable {i : Instr} {s : State} {bits : Word} {rd : FReg} {xd : Reg} {fl : BitVec 5}

/-! ### A result in `f[rd]` -/

/-- Making FS Dirty twice is making it so once. -/
theorem dirtied_dirtied (xl : Xlen) (m : Word) :
    withSD xl (setField (withSD xl (setField m 13 2 3)) 13 2 3) = withSD xl (setField m 13 2 3) := by
  refine word_ext fun k hk => ?_
  rw [bit_dirtied _ _ _ hk, bit_dirtied _ _ _ hk]
  split <;> rfl

theorem accrue_mstatus (fl : BitVec 5) (s : State) :
    (accrue fl s).mstatus = if fl = 0 then s.mstatus else withSD s.cfg.xlen (setField s.mstatus 13 2 3) := by
  rw [accrue_eq]

theorem accrue_writeFDirty_mstatus (fl : BitVec 5) (rd : FReg) (v : BitVec 64) (s : State) :
    (accrue fl (writeFDirty rd v s)).mstatus = withSD s.cfg.xlen (setField s.mstatus 13 2 3) := by
  rw [accrue_mstatus, writeFDirty_mstatus, writeFDirty_cfg, dirtied_dirtied, ite_self]

/-- A write of `f[rd]` with flags, in the words of Safety.lean. -/
theorem givesF_of_accrue {v : BitVec 64} (h : exec i s = .next (accrue fl (writeFDirty rd v s))) :
    GivesF i rd v fl s := by
  have hf : ∀ r, readF r (accrue fl (writeFDirty rd v s)) = readF r (writeF rd v s) :=
    fun r => readF_congr (accrue_f _ _) r
  refine ⟨_, h, ?value, accrue_fcsr _ _, ⟨fun r hr => ?other, fun a => ?memory, ?frm, ?dirty, ?rest⟩, accrue_npc _ _⟩
  case value => rw [hf, readF_writeF_same]
  case other => rw [hf, readF_writeF_other hr]
  case memory => rw [accrue_mem]; rfl
  case frm => exact (Accrues.keeps ⟨fl, accrue_fcsr fl (writeFDirty rd v s)⟩).2
  case dirty => exact accrue_writeFDirty_mstatus fl rd v s
  case rest => rw [accrue_eq]; rfl

theorem givesF_of {w : State → BitVec 64} {v : BitVec 64} (hfs : mstatusFS s ≠ 0)
    (h : exec i s = .next (fpEnabled bits s fun s => writeFDirty rd (w s) s)) (hv : w s = v) : GivesF i rd v 0 s := by
  subst hv
  exact givesF_of_accrue (h.trans (congrArg _ (fpEnabled_on hfs _)))

theorem givesF_result {fmt : Fmt} {r : State → BitVec 64 × BitVec 5} {v : BitVec 64} (hfs : mstatusFS s ≠ 0)
    (h : exec i s = .next (fpEnabled bits s fun s => writeFResult fmt rd (r s) s)) (hv : packFmt fmt (r s).1 = v)
    (hfl : (r s).2 = fl) : GivesF i rd v fl s := by
  subst hv hfl
  exact givesF_of_accrue (h.trans (congrArg _ (fpEnabled_on hfs _)))

theorem givesF_rounded {fmt : Fmt} {rm m : Rm} {r : Rm → State → BitVec 64 × BitVec 5} {v : BitVec 64}
    (hfs : mstatusFS s ≠ 0) (hm : RoundsBy rm m s)
    (h : exec i s = .next (fpRounded bits rm s fun m s => writeFResult fmt rd (r m s) s))
    (hv : packFmt fmt (r m s).1 = v) (hfl : (r m s).2 = fl) : GivesF i rd v fl s := by
  subst hv hfl
  exact givesF_of_accrue (h.trans (congrArg _ (fpRounded_legal hfs hm _)))

/-! ### A result in `x[rd]` -/

/-- A write of `x[rd]` with flags, in the words of Safety.lean. -/
theorem givesXFlags_of_accrue {w : Word} {v : Int} (h : exec i s = .next (writeXResult xd w fl s))
    (hv : ReadsAs s.cfg.xlen w v) : GivesXFlags i xd v fl s := by
  have hr : ∀ r, readX r (writeXResult xd w fl s) = readX r (writeX xd w s) :=
    fun r => readX_congr (accrue_x _ _) (accrue_cfg _ _) r
  refine ⟨_, h, ?value, fun r hne => ?other, fun a => ?memory, ?rest⟩
  case value => rw [regU, hr]; exact regU_writeX_same rfl hv
  case other => rw [hr, readX_writeX_other hne]
  case memory => rw [writeXResult, accrue_mem, writeX_mem]
  case rest =>
    rw [writeXResult, accrue_eq, writeX_eq_x]

theorem givesXFlags_of {w : State → Word} {fl : State → BitVec 5} {v : Int} {fl' : BitVec 5} (hfs : mstatusFS s ≠ 0)
    (h : exec i s = .next (fpEnabled bits s fun s => writeXResult xd (w s) (fl s) s)) (hfl : fl s = fl')
    (hv : ReadsAs s.cfg.xlen (w s) v) : GivesXFlags i xd v fl' s := by
  subst hfl
  exact givesXFlags_of_accrue (h.trans (congrArg _ (fpEnabled_on hfs _))) hv

theorem givesXFlags_rounded {rm m : Rm} {w : Rm → State → Word} {fl : Rm → State → BitVec 5} {v : Int}
    {fl' : BitVec 5} (hfs : mstatusFS s ≠ 0) (hm : RoundsBy rm m s)
    (h : exec i s = .next (fpRounded bits rm s fun m s => writeXResult xd (w m s) (fl m s) s)) (hfl : fl m s = fl')
    (hv : ReadsAs s.cfg.xlen (w m s) v) : GivesXFlags i xd v fl' s := by
  subst hfl
  exact givesXFlags_of_accrue (h.trans (congrArg _ (fpRounded_legal hfs hm _))) hv

theorem givesX_of_fpEnabled {w : State → Word} {v : Int} (hfs : mstatusFS s ≠ 0)
    (h : exec i s = .next (fpEnabled bits s fun s => writeX xd (w s) s)) (hv : ReadsAs s.cfg.xlen (w s) v) :
    GivesX i xd v s :=
  givesX_of (h.trans (congrArg _ (fpEnabled_on hfs _))) fun _ => hv

/-! ### Loads and stores -/

theorem loadF_of_memRead {fmt : Fmt} {ea w : Word} (hfs : mstatusFS s ≠ 0)
    (hw : memRead ea (match fmt with | .s => 4 | .d => 8) s = .ok w) :
    loadF bits fmt rd ea s = writeFDirty rd (packFmt fmt w) s := by
  refine (fpEnabled_on hfs _).trans ?_
  cases fmt <;> simp only [hw]

/-- A load into `f[rd]` that passes its checks writes the register image of the number it reads. -/
theorem givesF_load {fmt : Fmt} {ea : Word} {n pa v : Nat} (hfs : mstatusFS s ≠ 0)
    (hn : n = match fmt with | .s => 4 | .d => 8) (h : exec i s = .next (loadF bits fmt rd ea s))
    (hl : Loads ea n pa v s) : GivesF i rd (packFmt fmt (BitVec.ofNat 64 v)) 0 s := by
  have hwidth : IsWidth n := by cases fmt <;> subst hn <;> decide
  obtain ⟨w, hw, rfl, -⟩ := hl.memRead hwidth
  subst hn
  rw [BitVec.ofNat_toNat, BitVec.setWidth_eq]
  exact givesF_of_accrue (h.trans (congrArg _ (loadF_of_memRead hfs hw)))

theorem givesF_loadS {ea : Word} {pa v : Nat} (hfs : mstatusFS s ≠ 0)
    (h : exec i s = .next (loadF bits .s rd ea s)) (hl : Loads ea 4 pa v s) :
    GivesF i rd (box (BitVec.ofNat 32 v)) 0 s := by
  have himage : packFmt .s (BitVec.ofNat 64 v) = box (BitVec.ofNat 32 v) :=
    congrArg box (BitVec.setWidth_ofNat_of_le (by decide) v)
  exact himage ▸ givesF_load hfs rfl h hl

/-- A store of `f[rs2]` that passes its checks, in the words of Safety.lean. -/
theorem givesStore_of_storeF {fmt : Fmt} {ea : Word} {n : Nat} {rs2 : FReg} (hfs : mstatusFS s ≠ 0)
    (hn : n = match fmt with | .s => 4 | .d => 8) (h : exec i s = .next (storeF bits fmt rs2 ea s)) :
    GivesStore i ea n (readF rs2 s).toNat s := by
  have hwidth : IsWidth n := by cases fmt <;> subst hn <;> decide
  subst hn
  exact givesStore_of hwidth (h.trans (congrArg _ (fpEnabled_on hfs _)))

/-- Settles O31: each load is `loadF` and each store `storeF` of its format, at its effective address. -/
theorem fpLoadStoreResults : Obligations.FpLoadStoreResults := by
  intro rd rs2 rs1 imm crd crs2 crs1 c5 c6 pa v s hfs
  rw [← wide_eq crd, ← wide_eq crs1, ← wide_eq crs2]
  refine ⟨?flw, ?fld, ?cFlw, ?cFld, ?cFlwsp, ?cFldsp, ?fsw, ?fsd, ?cFsw, ?cFsd, ?cFswsp, ?cFsdsp⟩
  case flw | cFlw | cFlwsp => exact givesF_loadS hfs rfl
  case fld | cFld | cFldsp => exact givesF_load (fmt := .d) hfs rfl rfl
  case fsw | cFsw | cFswsp => exact givesStore_of_storeF (fmt := .s) hfs rfl rfl
  case fsd | cFsd | cFsdsp => exact givesStore_of_storeF (fmt := .d) hfs rfl rfl

/-! ### Arithmetic -/

theorem truncBytes_four_eq (r : Reg) (s : State) : truncBytes 4 (readX r s) = BitVec.ofNat 64 (lowU r s) :=
  truncBytes_eq_ofNat (by decide) _

/-- Settles O51: each form runs its operation of `FpArith` on its operands and writes the result with its flags. -/
theorem fpArithmeticResults : Obligations.FpArithmeticResults := by
  intro rd rs1 rs2 rs3 x1 rm m s hfs hm
  dsimp only
  rw [← truncBytes_four_eq]
  and_intros
  all_goals exact givesF_rounded hfs hm rfl rfl rfl

end Sys2Proof.Machine
end

section
/-!
Floating-point patterns (47_float_f.md rules R666, R667): the model's readings of a pattern are the fields of Safety.lean,
a pattern is its sign and its magnitude, and the classes by field.
-/

namespace Sys2Proof.Machine

variable {f : Fmt} {v : BitVec 64} {sign : Bool} {n : Nat}

/-! ### Fields -/

theorem fpSign_eq (f : Fmt) (v : BitVec 64) : fpSign f v = signOf f v := by cases f <;> rfl

theorem fpExp_eq (f : Fmt) (v : BitVec 64) : fpExp f v = expOf f v := by
  unfold fpExp
  rw [Nat.shiftRight_eq_div_pow]
  cases f <;> rfl

theorem fpFrac_eq (f : Fmt) (v : BitVec 64) : fpFrac f v = fracOf f v := by cases f <;> rfl

theorem maxExp_eq (f : Fmt) : f.maxExp = topExp f := by cases f <;> rfl

theorem minQ_eq (f : Fmt) : f.minQ = leastExp f := by cases f <;> rfl

theorem frac_eq (f : Fmt) : f.frac = fracBits f := by cases f <;> rfl

/-- The magnitude is the exponent field over the fraction field. -/
theorem fpMag_eq (f : Fmt) (v : BitVec 64) : fpMag f v = expOf f v * 2 ^ f.frac + fracOf f v := by
  rw [← fpExp_eq, ← fpFrac_eq, fpMag, fpExp, fpFrac, Nat.shiftRight_eq_div_pow, Nat.pow_add, Nat.mod_mul]
  ring

theorem fpMag_lt (f : Fmt) (v : BitVec 64) : fpMag f v < 2 ^ (f.frac + f.expBits) := Nat.mod_lt _ (Nat.two_pow_pos _)

theorem fracOf_lt (f : Fmt) (v : BitVec 64) : fracOf f v < 2 ^ f.frac := by
  rw [← fpFrac_eq]
  exact Nat.mod_lt _ (Nat.two_pow_pos _)

theorem fpMag_div (f : Fmt) (v : BitVec 64) : fpMag f v / 2 ^ f.frac = expOf f v := by
  rw [fpMag_eq, Nat.mul_comm, Nat.mul_add_div (Nat.two_pow_pos _), Nat.div_eq_of_lt (fracOf_lt f v), Nat.add_zero]

theorem fpMag_mod (f : Fmt) (v : BitVec 64) : fpMag f v % 2 ^ f.frac = fracOf f v := by
  rw [fpMag_eq, Nat.mul_comm, Nat.mul_add_mod, Nat.mod_eq_of_lt (fracOf_lt f v)]

theorem expOf_le (f : Fmt) (v : BitVec 64) : expOf f v ≤ topExp f := by
  cases f <;> simp only [expOf, topExp] <;> omega

/-! ### A pattern is its sign and its magnitude -/

theorem toNat_eq_mag (h : IsPattern f v) :
    v.toNat = fpMag f v + if signOf f v then 2 ^ (f.frac + f.expBits) else 0 := by
  have hb : ∀ k, v.getLsbD k = decide (v.toNat / 2 ^ k % 2 = 1) := fun k => by
    rw [BitVec.getLsbD, Nat.testBit_eq_decide_div_mod_eq]
  cases f
  · simp only [IsPattern, signOf, bit, hb, fpMag, Fmt.frac, Fmt.expBits, decide_eq_true_eq] at h ⊢
    split <;> omega
  · have := v.isLt
    simp only [signOf, bit, hb, fpMag, Fmt.frac, Fmt.expBits, decide_eq_true_eq]
    split <;> omega

theorem fpPattern_self (h : IsPattern f v) : fpPattern f (signOf f v) (fpMag f v) = v := by
  rw [fpPattern, ← toNat_eq_mag h, BitVec.ofNat_toNat, BitVec.setWidth_eq]

/-- Patterns with the same sign and magnitude are equal. -/
theorem pattern_ext {a b : BitVec 64} (ha : IsPattern f a) (hb : IsPattern f b) (hs : signOf f a = signOf f b)
    (hm : fpMag f a = fpMag f b) : a = b := by
  rw [← fpPattern_self ha, ← fpPattern_self hb, hs, hm]

theorem fpPattern_toNat (h : n < 2 ^ (f.frac + f.expBits)) :
    (fpPattern f sign n).toNat = n + if sign then 2 ^ (f.frac + f.expBits) else 0 := by
  rw [fpPattern, BitVec.toNat_ofNat, Nat.mod_eq_of_lt]
  cases f <;> cases sign <;> simp [Fmt.frac, Fmt.expBits] at * <;> omega

theorem isPattern_fpPattern (h : n < 2 ^ (f.frac + f.expBits)) : IsPattern f (fpPattern f sign n) := by
  have hn := fpPattern_toNat (sign := sign) h
  show _ < _
  rw [hn]
  cases f <;> cases sign <;> simp [Fmt.frac, Fmt.expBits] at * <;> omega

theorem fpMag_fpPattern (h : n < 2 ^ (f.frac + f.expBits)) : fpMag f (fpPattern f sign n) = n := by
  rw [fpMag, fpPattern_toNat h]
  cases sign
  · exact Nat.mod_eq_of_lt h
  · rw [if_pos rfl, Nat.add_mod_right, Nat.mod_eq_of_lt h]

theorem signOf_fpPattern (h : n < 2 ^ (f.frac + f.expBits)) : signOf f (fpPattern f sign n) = sign := by
  have hn := toNat_eq_mag (isPattern_fpPattern (sign := sign) h)
  rw [fpMag_fpPattern h, fpPattern_toNat h] at hn
  revert hn
  cases sign <;> cases signOf f (fpPattern f _ n) <;> simp

/-! ### The named patterns -/

theorem infMag_lt (f : Fmt) : f.infMag < 2 ^ (f.frac + f.expBits) := by cases f <;> decide

theorem fpPattern_zero (f : Fmt) (sign : Bool) : fpPattern f sign 0 = zeroPattern f sign := by
  cases f <;> cases sign <;> decide

theorem fpPattern_infMag (f : Fmt) (sign : Bool) : fpPattern f sign f.infMag = infPattern f sign := by
  cases f <;> cases sign <;> decide

theorem canonNaN_eq (f : Fmt) : canonNaN f = quietPattern f := by cases f <;> decide

/-! ### Classes -/

theorem isNaN_iff : isNaN f v = true ↔ FpNaN f v := by
  simp [isNaN, fpExp_eq, fpFrac_eq, maxExp_eq]

theorem isSNaN_iff : isSNaN f v = true ↔ FpSNaN f v := by
  rw [isSNaN, Bool.and_eq_true]
  refine and_congr isNaN_iff ?_
  cases f <;> exact (Bool.not_eq_true' _).to_iff

/-- Magnitudes are ordered as the fields are, the exponent first. -/
theorem fpMag_eq_iff (e : Nat) : fpMag f v = e * 2 ^ f.frac ↔ expOf f v = e ∧ fracOf f v = 0 := by
  refine ⟨fun h => ?_, fun ⟨he, hf⟩ => by rw [fpMag_eq, he, hf, Nat.add_zero]⟩
  rw [← fpMag_div, ← fpMag_mod, h]
  exact ⟨Nat.mul_div_cancel _ (Nat.two_pow_pos _), Nat.mul_mod_left _ _⟩

theorem isInf_iff : isInf f v = true ↔ FpInf f v := by
  rw [isInf, beq_iff_eq, Fmt.infMag, fpMag_eq_iff, maxExp_eq]

theorem isZero_iff : isZero f v = true ↔ FpZero f v := by
  rw [isZero, beq_iff_eq, ← Nat.zero_mul (2 ^ f.frac), fpMag_eq_iff]

theorem isNaN_iff_mag : isNaN f v = true ↔ f.infMag < fpMag f v := by
  have hle := expOf_le f v
  have hlt := fracOf_lt f v
  rw [isNaN_iff, FpNaN, Fmt.infMag, maxExp_eq, fpMag_eq]
  constructor
  · rintro ⟨he, hf⟩
    rw [he]
    omega
  · intro h
    have he : expOf f v = topExp f := by
      by_contra hne
      have : (expOf f v + 1) * 2 ^ f.frac ≤ topExp f * 2 ^ f.frac := Nat.mul_le_mul_right _ (by omega)
      rw [Nat.add_mul] at this
      omega
    rw [he] at h
    exact ⟨he, by omega⟩

theorem fpFinite_iff_mag : fpFinite f v ↔ IsPattern f v ∧ fpMag f v < f.infMag := by
  rw [fpFinite, Fmt.infMag, maxExp_eq, ← fpMag_div, Nat.div_lt_iff_lt_mul (Nat.two_pow_pos _)]

theorem not_isNaN_of_mag (h : fpMag f v ≤ f.infMag) : isNaN f v = false := by
  rw [Bool.eq_false_iff, ne_eq, isNaN_iff_mag]
  omega

theorem FpInf.mag (h : FpInf f v) : fpMag f v = f.infMag := beq_iff_eq.1 (isInf_iff.2 h)

theorem FpInf.isNaN (h : FpInf f v) : isNaN f v = false := not_isNaN_of_mag h.mag.le

theorem FpInf.isInf (h : FpInf f v) : isInf f v = true := isInf_iff.2 h

theorem fpFinite.isNaN (h : fpFinite f v) : isNaN f v = false := not_isNaN_of_mag (fpFinite_iff_mag.1 h).2.le

theorem fpFinite.isInf (h : fpFinite f v) : isInf f v = false := by
  rw [Bool.eq_false_iff, ne_eq, Machine.isInf, beq_iff_eq]
  exact (fpFinite_iff_mag.1 h).2.ne

theorem FpZero.isNaN (h : FpZero f v) : isNaN f v = false := by
  refine not_isNaN_of_mag ?_
  rw [fpMag_eq, h.1, h.2]
  omega

theorem isZero_of_inf (h : isInf f v = true) : isZero f v = false := by
  rw [Machine.isInf, beq_iff_eq] at h
  rw [isZero, h]
  cases f <;> decide

/-- A signaling NaN is a NaN. -/
theorem not_isSNaN (h : isNaN f v = false) : isSNaN f v = false := by rw [isSNaN, h, Bool.false_and]

end Sys2Proof.Machine
end

section
/-!
The value of a floating-point pattern, in units of the least subnormal: the order of values is that of signs and
magnitudes, by which the model compares (47_float_f.md rules R684 to R688).
-/

namespace Sys2Proof.Machine

variable {f : Fmt} {a b v : BitVec 64}

/-! ### Units -/

/-- A magnitude in units of the least subnormal. -/
def magUnits (f : Fmt) (n : Nat) : Nat :=
  if n / 2 ^ f.frac = 0 then n % 2 ^ f.frac else (2 ^ f.frac + n % 2 ^ f.frac) * 2 ^ (n / 2 ^ f.frac - 1)

/-- `r` units of an exponent `d` above the least are `r * 2^d` units, where `r` has at most one bit more than the
fraction, and has the hidden bit unless the exponent is the least. -/
theorem magUnits_pack {d r : Nat} (hr : r ≤ 2 * 2 ^ f.frac) (hd : d = 0 ∨ 2 ^ f.frac ≤ r) :
    magUnits f (d * 2 ^ f.frac + r) = r * 2 ^ d := by
  have hp := Nat.two_pow_pos f.frac
  unfold magUnits
  rcases Nat.lt_or_ge r (2 ^ f.frac) with hlt | hge
  · obtain rfl : d = 0 := by omega
    rw [Nat.zero_mul, Nat.zero_add, Nat.div_eq_of_lt hlt, if_pos rfl, Nat.mod_eq_of_lt hlt, Nat.pow_zero, Nat.mul_one]
  · have hn : d * 2 ^ f.frac + r = (r - 2 ^ f.frac) + 2 ^ f.frac * (d + 1) := by
      rw [Nat.mul_comm (2 ^ f.frac), Nat.add_mul]
      omega
    rw [hn, Nat.add_mul_div_left _ _ hp, Nat.add_mul_mod_self_left]
    rcases Nat.lt_or_ge (r - 2 ^ f.frac) (2 ^ f.frac) with hlt | hge'
    · rw [Nat.div_eq_of_lt hlt, Nat.mod_eq_of_lt hlt, if_neg (by omega), Nat.add_sub_cancel' hge]
      congr 2
      omega
    · obtain rfl : r = 2 ^ f.frac + 2 ^ f.frac := by omega
      rw [Nat.add_sub_cancel, Nat.div_self hp, Nat.mod_self, if_neg (by omega), Nat.add_zero,
        show 1 + (d + 1) - 1 = d + 1 by omega, Nat.pow_succ]
      ring

/-- Every magnitude has that form, and the next one too. -/
theorem exists_pack (f : Fmt) (n : Nat) :
    ∃ d r, n = d * 2 ^ f.frac + r ∧ r + 1 ≤ 2 * 2 ^ f.frac ∧ (d = 0 ∨ 2 ^ f.frac ≤ r) := by
  have hdm := Nat.div_add_mod' n (2 ^ f.frac)
  have hlt := Nat.mod_lt n (Nat.two_pow_pos f.frac)
  cases hq : n / 2 ^ f.frac with
  | zero => exact ⟨0, n, by omega, by rw [hq] at hdm; omega, .inl rfl⟩
  | succ d =>
    rw [hq, Nat.add_mul] at hdm
    exact ⟨d, 2 ^ f.frac + n % 2 ^ f.frac, by omega, by omega, .inr (by omega)⟩

theorem strictMono_magUnits (f : Fmt) : StrictMono (magUnits f) := by
  refine strictMono_nat_of_lt_succ fun n => ?_
  obtain ⟨d, r, rfl, hr, hd⟩ := exists_pack f n
  rw [Nat.add_assoc, magUnits_pack (by omega) hd, magUnits_pack hr (by omega)]
  exact Nat.mul_lt_mul_of_pos_right (Nat.lt_succ_self r) (Nat.two_pow_pos d)

theorem magUnits_lt_iff {m n : Nat} : magUnits f m < magUnits f n ↔ m < n := (strictMono_magUnits f).lt_iff_lt

theorem magUnits_inj {m n : Nat} : magUnits f m = magUnits f n ↔ m = n := (strictMono_magUnits f).injective.eq_iff

theorem magUnits_zero (f : Fmt) : magUnits f 0 = 0 := by simp [magUnits]

/-- A pattern in units of the least subnormal. -/
def signedUnits (f : Fmt) (v : BitVec 64) : ℤ :=
  if signOf f v then -(magUnits f (fpMag f v) : ℤ) else magUnits f (fpMag f v)

theorem fpValue_eq (f : Fmt) (v : BitVec 64) : fpValue f v = signedUnits f v * 2 ^ leastExp f := by
  have hunits : (if expOf f v = 0 then (fracOf f v : ℚ) * 2 ^ leastExp f
      else (2 ^ fracBits f + fracOf f v : ℚ) * 2 ^ (leastExp f + expOf f v - 1))
      = (magUnits f (fpMag f v) : ℚ) * 2 ^ leastExp f := by
    rw [magUnits, fpMag_div, fpMag_mod, frac_eq]
    split
    · rfl
    · rename_i he
      rw [show leastExp f + expOf f v - 1 = ((expOf f v - 1 : Nat) : ℤ) + leastExp f by omega,
        zpow_add₀ two_ne_zero, zpow_natCast]
      push_cast
      ring
  rw [fpValue, hunits, signedUnits]
  cases signOf f v <;> simp

theorem leastExp_pos (f : Fmt) : (0 : ℚ) < 2 ^ leastExp f := zpow_pos two_pos _

theorem fpValue_eq_iff : fpValue f a = fpValue f b ↔ signedUnits f a = signedUnits f b := by
  rw [fpValue_eq, fpValue_eq, mul_left_inj' (leastExp_pos f).ne', Int.cast_inj]

theorem fpValue_lt_iff : fpValue f a < fpValue f b ↔ signedUnits f a < signedUnits f b := by
  rw [fpValue_eq, fpValue_eq, mul_lt_mul_iff_left₀ (leastExp_pos f), Int.cast_lt]

theorem fpValue_le_iff : fpValue f a ≤ fpValue f b ↔ signedUnits f a ≤ signedUnits f b := by
  rw [← not_lt, fpValue_lt_iff, not_lt]

theorem signedUnits_eq_zero_iff : signedUnits f v = 0 ↔ FpZero f v := by
  have hz : magUnits f (fpMag f v) = 0 ↔ fpMag f v = 0 := by rw [← magUnits_zero f, magUnits_inj, magUnits_zero]
  rw [← isZero_iff, isZero, beq_iff_eq, ← hz, signedUnits]
  split <;> omega

theorem fpValue_eq_zero_iff : fpValue f v = 0 ↔ FpZero f v := by
  rw [fpValue_eq, mul_eq_zero, or_iff_left (leastExp_pos f).ne', Int.cast_eq_zero, signedUnits_eq_zero_iff]

/-! ### The model's comparisons -/

theorem fpLt_iff : fpLt f a b = true ↔ signedUnits f a < signedUnits f b := by
  have hlt := @magUnits_lt_iff f (fpMag f a) (fpMag f b)
  have hgt := @magUnits_lt_iff f (fpMag f b) (fpMag f a)
  have ha := @magUnits_lt_iff f 0 (fpMag f a)
  have hb := @magUnits_lt_iff f 0 (fpMag f b)
  rw [magUnits_zero] at ha hb
  rw [fpLt, isZero, isZero, fpSign_eq, fpSign_eq, signedUnits, signedUnits]
  by_cases hz : fpMag f a = 0 ∧ fpMag f b = 0
  · simp [hz.1, hz.2, magUnits_zero]
  · rw [if_neg (by simpa using hz)]
    cases signOf f a <;> cases signOf f b <;> simp <;> omega

theorem fpEq_iff : fpEq f a b = true ↔ signedUnits f a = signedUnits f b := by
  have heq := @magUnits_inj f (fpMag f a) (fpMag f b)
  have ha := @magUnits_lt_iff f 0 (fpMag f a)
  have hb := @magUnits_lt_iff f 0 (fpMag f b)
  rw [magUnits_zero] at ha hb
  rw [fpEq, isZero, isZero, fpSign_eq, fpSign_eq, signedUnits, signedUnits]
  cases signOf f a <;> cases signOf f b <;> simp <;> omega

theorem fpLe_iff : (fpLt f a b || fpEq f a b) = true ↔ signedUnits f a ≤ signedUnits f b := by
  rw [Bool.or_eq_true, fpLt_iff, fpEq_iff, le_iff_lt_or_eq]

end Sys2Proof.Machine
end

section
/-!
Comparison, minimum and maximum (47_float_f.md rules R684 to R688) by values, and by bits where an operand has none.
-/

namespace Sys2Proof.Machine

variable {f : Fmt} {a b v : BitVec 64}

/-! ### Finite operands -/

theorem fpFeq_of_not_nan (ha : isNaN f a = false) (hb : isNaN f b = false) : fpFeq f a b = (fpEq f a b, 0) := by
  simp [fpFeq, ha, hb, not_isSNaN]

theorem fpFlt_of_not_nan (ha : isNaN f a = false) (hb : isNaN f b = false) : fpFlt f a b = (fpLt f a b, 0) := by
  simp [fpFlt, ha, hb]

theorem fpFle_of_not_nan (ha : isNaN f a = false) (hb : isNaN f b = false) :
    fpFle f a b = (fpLt f a b || fpEq f a b, 0) := by
  simp [fpFle, ha, hb]

/-- Two zeros of different signs: minimum gives -0, maximum +0. -/
theorem fpMinMax_zeros (isMax : Bool) (ha : FpZero f a) (hb : FpZero f b) (hs : signOf f a ≠ signOf f b) :
    fpMinMax f isMax a b = (zeroPattern f (!isMax), 0) := by
  simp [fpMinMax, ha.isNaN, hb.isNaN, not_isSNaN, isZero_iff.2 ha, isZero_iff.2 hb, fpSign_eq, hs, fpPattern_zero]

/-- Other operands that are no NaNs: minimum and maximum choose by the comparison. -/
theorem fpMinMax_select (isMax : Bool) (ha : isNaN f a = false) (hb : isNaN f b = false)
    (hz : FpZero f a → FpZero f b → signOf f a = signOf f b) :
    fpMinMax f isMax a b = (if fpLt f a b = isMax then b else a, 0) := by
  have hcond : (isZero f a && isZero f b && fpSign f a != fpSign f b) = false := by
    rw [Bool.eq_false_iff]
    intro h
    rw [Bool.and_eq_true, Bool.and_eq_true, isZero_iff, isZero_iff, bne_iff_ne, fpSign_eq, fpSign_eq] at h
    exact h.2 (hz h.1.1 h.1.2)
  simp only [fpMinMax, ha, hb, not_isSNaN, hcond, Bool.or_self, Bool.and_self, Bool.false_eq_true, if_false]
  cases fpLt f a b <;> cases isMax <;> rfl

theorem fpValue_zeroPattern (f : Fmt) (sign : Bool) : fpValue f (zeroPattern f sign) = 0 :=
  fpValue_eq_zero_iff.2 (by cases f <;> cases sign <;> decide)

/-- The value that minimum or maximum gives for operands that are no NaNs. -/
theorem fpValue_fpMinMax (isMax : Bool) (ha : isNaN f a = false) (hb : isNaN f b = false) :
    fpValue f (fpMinMax f isMax a b).1
      = if isMax then max (fpValue f a) (fpValue f b) else min (fpValue f a) (fpValue f b) := by
  by_cases h : FpZero f a ∧ FpZero f b ∧ signOf f a ≠ signOf f b
  · obtain ⟨hza, hzb, hs⟩ := h
    rw [fpMinMax_zeros isMax hza hzb hs, fpValue_zeroPattern, fpValue_eq_zero_iff.2 hza, fpValue_eq_zero_iff.2 hzb]
    simp
  · rw [fpMinMax_select isMax ha hb fun hza hzb => by_contra fun hs => h ⟨hza, hzb, hs⟩]
    cases hlt : fpLt f a b with
    | true =>
      have hv := (fpValue_lt_iff.2 (fpLt_iff.1 hlt)).le
      cases isMax <;> simp [hv]
    | false =>
      have hv := fpValue_le_iff.2 (not_lt.1 (mt fpLt_iff.2 (Bool.eq_false_iff.1 hlt)))
      cases isMax <;> simp [hv]

/-! ### Infinities -/

/-- The units of infinity. -/
def infUnits (f : Fmt) : ℤ := magUnits f f.infMag

theorem abs_signedUnits (f : Fmt) (v : BitVec 64) : |signedUnits f v| = magUnits f (fpMag f v) := by
  rw [signedUnits]
  split <;> simp

theorem signedUnits_bounds (h : isNaN f v = false) : |signedUnits f v| ≤ infUnits f := by
  rw [Bool.eq_false_iff, ne_eq, isNaN_iff_mag, not_lt] at h
  rw [abs_signedUnits, infUnits, Int.ofNat_le]
  exact (strictMono_magUnits f).monotone h

theorem fpFinite_iff_units (hp : IsPattern f v) : fpFinite f v ↔ |signedUnits f v| < infUnits f := by
  rw [fpFinite_iff_mag, and_iff_right hp, abs_signedUnits, infUnits, Int.ofNat_lt, magUnits_lt_iff]

theorem infUnits_pos (f : Fmt) : 0 < infUnits f := by
  rw [infUnits, Int.natCast_pos, ← magUnits_zero f, magUnits_lt_iff]
  cases f <;> decide

/-- A signed infinity, by its units. -/
theorem eq_infPattern_iff (hp : IsPattern f v) (sign : Bool) :
    v = infPattern f sign ↔ signedUnits f v = if sign then -infUnits f else infUnits f := by
  have hinf := fpPattern_infMag f sign
  have hpos := infUnits_pos f
  constructor
  · rintro rfl
    rw [signedUnits, ← hinf, signOf_fpPattern (infMag_lt f), fpMag_fpPattern (infMag_lt f), infUnits]
  · intro h
    have hmag : fpMag f v = f.infMag := by
      have habs : |signedUnits f v| = infUnits f := by
        rw [h]
        cases sign <;> simp [hpos.le]
      rw [abs_signedUnits, infUnits, Int.ofNat_inj] at habs
      exact magUnits_inj.1 habs
    have hsign : signOf f v = sign := by
      rw [signedUnits, hmag] at h
      change (if _ then -infUnits f else infUnits f) = _ at h
      revert h
      cases signOf f v <;> cases sign <;> simp <;> omega
    rw [← hinf, ← hsign, ← hmag, fpPattern_self hp]

/-- An operand is below another one where neither is a NaN: an infinity by its sign, finite ones by value. -/
def FpLess (f : Fmt) (a b : BitVec 64) : Prop :=
  (a = infPattern f true ∧ b ≠ infPattern f true) ∨ (b = infPattern f false ∧ a ≠ infPattern f false)
    ∨ (fpFinite f a ∧ fpFinite f b ∧ fpValue f a < fpValue f b)

theorem fpLess_iff (ha : IsPattern f a) (hb : IsPattern f b) (hna : isNaN f a = false) (hnb : isNaN f b = false) :
    FpLess f a b ↔ signedUnits f a < signedUnits f b := by
  have hba := abs_le.1 (signedUnits_bounds hna)
  have hbb := abs_le.1 (signedUnits_bounds hnb)
  rw [FpLess, ne_eq, ne_eq, eq_infPattern_iff ha, eq_infPattern_iff hb, eq_infPattern_iff ha, eq_infPattern_iff hb,
    fpFinite_iff_units ha, fpFinite_iff_units hb, fpValue_lt_iff, abs_lt, abs_lt, if_pos rfl, if_neg Bool.false_ne_true]
  omega

/-! ### All operands -/

theorem nan_or_iff : (isNaN f a || isNaN f b) = true ↔ FpNaN f a ∨ FpNaN f b := by
  rw [Bool.or_eq_true, isNaN_iff, isNaN_iff]

theorem not_nan_iff : ¬(FpNaN f a ∨ FpNaN f b) ↔ isNaN f a = false ∧ isNaN f b = false := by
  rw [← nan_or_iff, Bool.not_eq_true, Bool.or_eq_false_iff]

theorem fpEq_iff_bits (ha : IsPattern f a) (hb : IsPattern f b) :
    fpEq f a b = true ↔ a = b ∨ (FpZero f a ∧ FpZero f b) := by
  rw [fpEq, Bool.or_eq_true, Bool.and_eq_true, Bool.and_eq_true, isZero_iff, isZero_iff, beq_iff_eq, beq_iff_eq, fpSign_eq,
    fpSign_eq, or_comm]
  refine or_congr_left ⟨fun h => pattern_ext ha hb h.1 h.2, ?_⟩
  rintro rfl
  exact ⟨rfl, rfl⟩

theorem fpFeq_true_iff (ha : IsPattern f a) (hb : IsPattern f b) :
    (fpFeq f a b).1 = true ↔ ¬(FpNaN f a ∨ FpNaN f b) ∧ (a = b ∨ (FpZero f a ∧ FpZero f b)) := by
  rw [not_nan_iff, ← fpEq_iff_bits ha hb]
  simp [fpFeq]

theorem fpFlt_true_iff (ha : IsPattern f a) (hb : IsPattern f b) :
    (fpFlt f a b).1 = true ↔ ¬(FpNaN f a ∨ FpNaN f b) ∧ FpLess f a b := by
  by_cases h : FpNaN f a ∨ FpNaN f b
  · simp [fpFlt, nan_or_iff.2 h, h]
  · obtain ⟨hna, hnb⟩ := not_nan_iff.1 h
    rw [fpFlt_of_not_nan hna hnb, fpLess_iff ha hb hna hnb, fpLt_iff, and_iff_right h]

theorem fpFle_true_iff (ha : IsPattern f a) (hb : IsPattern f b) :
    (fpFle f a b).1 = true ↔ ¬(FpNaN f a ∨ FpNaN f b) ∧ ¬FpLess f b a := by
  by_cases h : FpNaN f a ∨ FpNaN f b
  · simp [fpFle, nan_or_iff.2 h, h]
  · obtain ⟨hna, hnb⟩ := not_nan_iff.1 h
    rw [fpFle_of_not_nan hna hnb, fpLess_iff hb ha hnb hna, fpLe_iff, and_iff_right h, not_lt]

/-- The flags of a quiet comparison: NV for a signaling NaN. -/
theorem signaling_flags : (if isSNaN f a || isSNaN f b then 0b10000#5 else 0#5)
    = if FpSNaN f a ∨ FpSNaN f b then 0b10000#5 else 0 := by
  simp only [Bool.or_eq_true, isSNaN_iff]
  rfl

theorem fpMinMax_flags (isMax : Bool) :
    (fpMinMax f isMax a b).2 = if FpSNaN f a ∨ FpSNaN f b then 0b10000#5 else 0 := by
  rw [← signaling_flags, fpMinMax]
  split_ifs <;> rfl

theorem fpFlt_flags : (fpFlt f a b).2 = if FpNaN f a ∨ FpNaN f b then 0b10000#5 else 0 := by
  simp only [fpFlt, nan_or_iff]
  split <;> rfl

theorem fpFle_flags : (fpFle f a b).2 = if FpNaN f a ∨ FpNaN f b then 0b10000#5 else 0 := by
  simp only [fpFle, nan_or_iff]
  split <;> rfl

theorem fpMinMax_self (isMax : Bool) (h : isNaN f a = false) : (fpMinMax f isMax a a).1 = a := by
  rw [fpMinMax_select isMax h h fun _ _ => rfl]
  exact ite_self a

/-- Minimum and maximum of operands of which one is below the other. -/
theorem fpMinMax_of_ne (isMax : Bool) (ha : isNaN f a = false) (hb : isNaN f b = false)
    (h : signedUnits f a ≠ signedUnits f b) :
    (fpMinMax f isMax a b).1 = if (decide (signedUnits f a < signedUnits f b)) = isMax then b else a := by
  have hz : FpZero f a → FpZero f b → signOf f a = signOf f b := fun hza hzb =>
    absurd ((signedUnits_eq_zero_iff.2 hza).trans (signedUnits_eq_zero_iff.2 hzb).symm) h
  have hlt : fpLt f a b = decide (signedUnits f a < signedUnits f b) := by
    rw [Bool.eq_iff_iff, fpLt_iff, decide_eq_true_iff]
  rw [fpMinMax_select isMax ha hb hz, hlt]

/-- Settles O54: the model compares signs and magnitudes, which order the operands as their values do, an infinity beyond
every value. -/
theorem comparisonsAgreeWithValues : Obligations.ComparisonsAgreeWithValues := by
  refine ⟨fun f a b ha hb => ?finite, fun f a b ha hb => ?all⟩
  case finite =>
    have hna := ha.isNaN
    have hnb := hb.isNaN
    have hflags : ∀ isMax, (fpMinMax f isMax a b).2 = 0 := fun isMax => by
      rw [fpMinMax_flags, ← signaling_flags, not_isSNaN hna, not_isSNaN hnb]
      rfl
    rw [fpFeq_of_not_nan hna hnb, fpFlt_of_not_nan hna hnb, fpFle_of_not_nan hna hnb]
    exact ⟨fpEq_iff.trans fpValue_eq_iff.symm, fpLt_iff.trans fpValue_lt_iff.symm, fpLe_iff.trans fpValue_le_iff.symm,
      fpValue_fpMinMax false hna hnb, fpValue_fpMinMax true hna hnb, rfl, rfl, rfl, hflags false, hflags true⟩
  case all =>
    refine ⟨fpFeq_true_iff ha hb, signaling_flags, fpFlt_true_iff ha hb, fpFlt_flags, fpFle_true_iff ha hb, fpFle_flags,
      fun isMax => ⟨fpMinMax_flags isMax, fun hna hnb => ?both, fun hna hnb => ?left, fun hna hnb => ?right,
      fun hza hzb hne => ?zeros, fun hna => fpMinMax_self isMax (Bool.eq_false_iff.2 (mt isNaN_iff.1 hna)),
      fun hnan hlt => ?below, fun hnan hlt => ?above⟩⟩
    case both => simp [fpMinMax, isNaN_iff.2 hna, isNaN_iff.2 hnb, canonNaN_eq]
    case left => simp [fpMinMax, isNaN_iff.2 hna, Bool.eq_false_iff.2 (mt isNaN_iff.1 hnb)]
    case right => simp [fpMinMax, isNaN_iff.2 hnb, Bool.eq_false_iff.2 (mt isNaN_iff.1 hna)]
    case zeros =>
      have hmag : fpMag f a = fpMag f b := by rw [fpMag_eq, fpMag_eq, hza.1, hza.2, hzb.1, hzb.2]
      rw [fpMinMax_zeros isMax hza hzb fun hs => hne (pattern_ext ha hb hs hmag)]
    case below =>
      obtain ⟨hna, hnb⟩ := not_nan_iff.1 hnan
      have hu := (fpLess_iff ha hb hna hnb).1 hlt
      rw [fpMinMax_of_ne isMax hna hnb hu.ne, decide_eq_true hu]
      cases isMax <;> rfl
    case above =>
      obtain ⟨hna, hnb⟩ := not_nan_iff.1 hnan
      have hu := (fpLess_iff hb ha hnb hna).1 hlt
      rw [fpMinMax_of_ne isMax hna hnb hu.ne', decide_eq_false hu.not_gt]
      cases isMax <;> rfl

end Sys2Proof.Machine
end

section
/-!
The instructions that do not use `FpArith` (47_float_f.md rules R681 to R689, R698, R699, 48_float_d.md rules R732 to
R740, R751, R752): sign injection on bits, the ten classes, and each form as a write with flags.
-/

namespace Sys2Proof.Machine

/-! ### Sign injection -/

/-- The sign bit over the bits of the magnitude. -/
theorem sgnj_single (sign : Bool) (a : BitVec 32) :
    packFmt .s (sgnj .s sign (a.setWidth 64)) = box (BitVec.ofBool sign ++ a.extractLsb' 0 31) := by
  refine congrArg box (BitVec.eq_of_toNat_eq ?_)
  have ha := a.isLt
  rw [append_toNat, BitVec.toNat_setWidth, sgnj, fpPattern_toNat (fpMag_lt _ _), fpMag,
    BitVec.toNat_setWidth, BitVec.extractLsb'_toNat, Nat.shiftRight_zero]
  cases sign <;> simp [Fmt.frac, Fmt.expBits] <;> omega

theorem sgnj_double (sign : Bool) (a : BitVec 64) :
    packFmt .d (sgnj .d sign a) = BitVec.ofBool sign ++ a.extractLsb' 0 63 := by
  refine BitVec.eq_of_toNat_eq ?_
  rw [append_toNat, packFmt, sgnj, fpPattern_toNat (fpMag_lt _ _), fpMag,
    BitVec.extractLsb'_toNat, Nat.shiftRight_zero]
  cases sign
  · simp [Fmt.frac, Fmt.expBits]
  · simp [Fmt.frac, Fmt.expBits]
    omega

theorem extractLsb'_one {w : Nat} (v : BitVec w) (k : Nat) : v.extractLsb' k 1 = BitVec.ofBool (v.getLsbD k) := by
  ext j hj
  obtain rfl : j = 0 := by omega
  simp

theorem fpSign_single (a : BitVec 32) : BitVec.ofBool (fpSign .s (a.setWidth 64)) = a.extractLsb' 31 1 := by
  rw [extractLsb'_one, fpSign, BitVec.getLsbD_setWidth]
  rfl

theorem fpSign_double (a : BitVec 64) : BitVec.ofBool (fpSign .d a) = a.extractLsb' 63 1 := by
  rw [extractLsb'_one, fpSign]
  rfl

theorem ofBool_bne (p q : Bool) : BitVec.ofBool (p != q) = BitVec.ofBool p ^^^ BitVec.ofBool q := by
  cases p <;> cases q <;> rfl

theorem ofBool_not (p : Bool) : BitVec.ofBool (!p) = ~~~BitVec.ofBool p := by cases p <;> rfl

/-! ### Classes -/

/-- The class of a pattern by its fields (rule R689). -/
theorem fpClass_eq (f : Fmt) (a : BitVec 64) : fpClass f a =
    if FpNaN f a then if FpSNaN f a then 0x100 else 0x200
    else if FpInf f a then if signOf f a then 0x001 else 0x080
    else if FpZero f a then if signOf f a then 0x008 else 0x010
    else if expOf f a = 0 then if signOf f a then 0x004 else 0x020
    else if signOf f a then 0x002 else 0x040 := by
  simp only [fpClass, isNaN_iff, isSNaN_iff, isInf_iff, isZero_iff, fpSign_eq, fpExp_eq]

theorem topExp_pos (f : Fmt) : 0 < topExp f := by cases f <;> decide

/-- The five classes that are no NaN, each with a bit for either sign. -/
theorem fpClass_signed (f : Fmt) (a : BitVec 64) :
    (FpInf f a → fpClass f a = if signOf f a then 0x001 else 0x080)
    ∧ (0 < expOf f a → expOf f a < topExp f → fpClass f a = if signOf f a then 0x002 else 0x040)
    ∧ (expOf f a = 0 → fracOf f a ≠ 0 → fpClass f a = if signOf f a then 0x004 else 0x020)
    ∧ (FpZero f a → fpClass f a = if signOf f a then 0x008 else 0x010) := by
  have htop := (topExp_pos f).ne
  rw [fpClass_eq]
  refine ⟨fun ⟨he, hf⟩ => ?_, fun h0 htop' => ?_, fun he hf => ?_, fun ⟨he, hf⟩ => ?_⟩
  · simp [FpNaN, FpInf, he, hf]
  · simp [FpNaN, FpInf, FpZero, htop'.ne, h0.ne']
  · simp [FpNaN, FpInf, FpZero, he, hf, htop]
  · simp [FpNaN, FpInf, FpZero, he, hf, htop]

/-- Settles O53: sign injection puts a sign bit over the magnitude's bits, the moves and the comparisons are one write,
and the class is chosen by the fields. -/
theorem fpBitResults : Obligations.FpBitResults := by
  refine ⟨fun rd rs1 rs2 xd x1 s hfs => ?instructions, fun f a hp => ?classes⟩
  case instructions =>
    dsimp only
    have hflag : ∀ b : Bool, ReadsAs s.cfg.xlen (boolWord b) (ofProp (b = true)) := fun b => .bool _ b _ Iff.rfl
    have hlow : (readX x1 s).setWidth 32 = BitVec.ofNat 32 (lowU x1 s) := by
      refine BitVec.eq_of_toNat_eq ?_
      rw [BitVec.toNat_setWidth, BitVec.toNat_ofNat, lowU, Nat.mod_mod]
      rfl
    rw [← hlow, ← fpSign_single, ← fpSign_single, ← fpSign_double, ← fpSign_double, ← ofBool_not, ← ofBool_not,
      ← ofBool_bne, ← ofBool_bne]
    simp only [← sgnj_single, ← sgnj_double]
    refine ⟨?_, ?_, ?_, ?_, ?_, ?_, ?minS, ?maxS, ?minD, ?maxD, ?feqS, ?fltS, ?fleS, ?feqD, ?fltD, ?fleD, ?classS, ?classD,
      ?mvXW, ?mvXD, ?mvWX, ?mvDX⟩
    case minS | maxS | minD | maxD => exact givesF_result hfs rfl rfl rfl
    case feqS | fltS | fleS | feqD | fltD | fleD => exact givesXFlags_of hfs rfl rfl (hflag _)
    case classS | classD => exact givesX_of_fpEnabled hfs rfl (.nat _ _)
    case mvXW => exact givesX_of_fpEnabled hfs rfl (.sext32 rfl)
    case mvXD => exact givesX_of_fpEnabled hfs rfl (.nat _ _)
    all_goals exact givesF_of hfs rfl rfl
  case classes =>
    obtain ⟨hinf, hnormal, hsub, hzero⟩ := fpClass_signed f a
    refine ⟨fun h hs => ?_, fun h hs => ?_, fun h0 h1 => ⟨fun hs => ?_, fun hs => ?_⟩,
      fun h0 h1 => ⟨fun hs => ?_, fun hs => ?_⟩, fun h => ⟨fun hs => ?_, fun hs => ?_⟩, fun h => ?signaling,
      fun h hq => ?quiet⟩
    · rw [hinf h, hs]; rfl
    · rw [hinf h, hs]; rfl
    · rw [hnormal h0 h1, hs]; rfl
    · rw [hnormal h0 h1, hs]; rfl
    · rw [hsub h0 h1, hs]; rfl
    · rw [hsub h0 h1, hs]; rfl
    · rw [hzero h, hs]; rfl
    · rw [hzero h, hs]; rfl
    case signaling => rw [fpClass_eq, if_pos h.1, if_pos h]
    case quiet => rw [fpClass_eq, if_pos h, if_neg hq]

end Sys2Proof.Machine
end

section
/-!
Rounding to an integer (47_float_f.md rule R665): what the model keeps of a magnitude stands for the exact one, and the
model's rounding of it is what `RoundsToInt` says; with it the conversions to integers (rule R700).
-/

namespace Sys2Proof.Machine

/-! ### Signed numbers -/

/-- A number with the sign of a pattern. -/
def applySign {α : Type} [Neg α] (sign : Bool) (y : α) : α := if sign then -y else y

@[simp] theorem applySign_false {α : Type} [Neg α] (y : α) : applySign false y = y := rfl

@[simp] theorem applySign_true {α : Type} [Neg α] (y : α) : applySign true y = -y := rfl

section
variable {K : Type} [Field K]

theorem applySign_mul (sign : Bool) (y c : K) : applySign sign (y * c) = applySign sign y * c := by cases sign <;> simp

theorem applySign_div (sign : Bool) (y c : K) : applySign sign (y / c) = applySign sign y / c := by
  cases sign <;> simp [neg_div]

theorem applySign_inj {sign : Bool} {a b : K} : applySign sign a = applySign sign b ↔ a = b := by cases sign <;> simp

theorem cast_applySign_nat (sign : Bool) (n : ℕ) : ((applySign sign (n : ℤ) : ℤ) : K) = applySign sign (n : K) := by
  cases sign <;> simp

variable [LinearOrder K]

theorem abs_applySign (sign : Bool) (z : K) : |applySign sign z| = |z| := by cases sign <;> simp

/-- The distance of a signed number to a signed integer is that of the magnitudes. -/
theorem abs_applySign_sub (sign : Bool) (z : K) (n : ℕ) :
    |applySign sign z - ((applySign sign (n : ℤ) : ℤ) : K)| = |z - n| := by
  rw [cast_applySign_nat]
  cases sign
  · rfl
  · rw [applySign_true, applySign_true, neg_sub_neg, abs_sub_comm]

end

/-! ### A magnitude between two integers -/

section
variable {K : Type} [Field K] [LinearOrder K] [IsStrictOrderedRing K] {rm : Rm} {sign : Bool} {r : ℕ × Bool} {z : K}
  {k : ℕ} {cmp : Ordering}

/-- How a magnitude `z` just above the integer `k` compares with `k + 1/2`. -/
def AgainstHalf (cmp : Ordering) (z : K) (k : ℕ) : Prop :=
  match cmp with
  | .lt => 2 * (z - k) < 1
  | .eq => 2 * (z - k) = 1
  | .gt => 1 < 2 * (z - k)

/-- A rounded magnitude and whether anything was lost are what the rounding mode makes of the magnitude `z`. -/
inductive RoundsMag (rm : Rm) (sign : Bool) (z : K) : ℕ × Bool → Prop
  | exact (n : ℕ) : z = n → RoundsMag rm sign z (n, false)
  | inexact (k : ℕ) (cmp : Ordering) : k < z → z < k + 1 → AgainstHalf cmp z k →
      RoundsMag rm sign z (if roundsUp rm sign (k % 2 == 1) cmp then k + 1 else k, true)

theorem rm_cases (hrm : rm.toNat < 5) : rm = 0 ∨ rm = 1 ∨ rm = 2 ∨ rm = 3 ∨ rm = 4 := by
  revert rm
  decide

theorem roundsToInt_self (hrm : rm.toNat < 5) (n : ℤ) : RoundsToInt rm (n : K) n := by
  rcases rm_cases hrm with rfl | rfl | rfl | rfl | rfl <;> simp [RoundsToInt]

/-- The kept integer, or the next one where the mode rounds away from it, is near. -/
theorem abs_sub_rounded (hlo : k < z) (hhi : z < k + 1) (up : Bool) :
    |z - ((if up then k + 1 else k : ℕ) : K)| = if up then 1 - (z - k) else z - k := by
  cases up
  · exact abs_of_pos (sub_pos.2 hlo)
  · have : z - ((k + 1 : ℕ) : K) < 0 := by push_cast; linarith
    rw [if_pos rfl, if_pos rfl, abs_of_neg this]
    push_cast
    ring

/-- Rounding to the nearest, whatever a tie does. -/
theorem nearest_of_againstHalf (hlo : k < z) (hhi : z < k + 1) (hcmp : AgainstHalf cmp z k) {up : Bool}
    (hlt : cmp = .lt → up = false) (hgt : cmp = .gt → up = true) :
    2 * |z - ((if up then k + 1 else k : ℕ) : K)| ≤ 1
    ∧ (2 * |z - ((if up then k + 1 else k : ℕ) : K)| = 1 → cmp = .eq) := by
  rw [abs_sub_rounded hlo hhi]
  cases cmp
  · have hc : 2 * (z - k) < 1 := hcmp
    rw [hlt rfl, if_neg Bool.false_ne_true]
    exact ⟨hc.le, fun h => absurd h hc.ne⟩
  · have hc : 2 * (z - k) = 1 := hcmp
    refine ⟨?_, fun _ => rfl⟩
    split <;> linarith
  · have hc : 1 < 2 * (z - k) := hcmp
    rw [hgt rfl, if_pos rfl]
    exact ⟨by linarith, fun h => by linarith⟩

/-- A tie goes to the even one of its two neighbours. -/
theorem even_of_tie (sign : Bool) (k : ℕ) :
    applySign sign ((if roundsUp 0 sign (k % 2 == 1) .eq then k + 1 else k : ℕ) : ℤ) % 2 = 0 := by
  have hodd : ∀ odd, roundsUp 0 sign odd .eq = odd := fun odd => by cases odd <;> rfl
  rw [hodd]
  have heven : (if (k % 2 == 1) = true then k + 1 else k) % 2 = 0 := by
    simp only [beq_iff_eq]
    split <;> omega
  cases sign
  · rw [applySign_false]
    omega
  · rw [applySign_true]
    omega

theorem towardsZero_of_between (sign : Bool) (hlo : k < z) (hhi : z < k + 1) :
    RoundsToInt 1 (applySign sign z) (applySign sign (k : ℤ)) := by
  have hk : (0 : K) ≤ k := Nat.cast_nonneg k
  simp only [RoundsToInt]
  cases sign
  · rw [applySign_false, applySign_false, if_pos (by linarith), Int.cast_natCast]
    exact ⟨hlo.le, hhi⟩
  · rw [applySign_true, applySign_true, if_neg (by linarith), Int.cast_neg, Int.cast_natCast]
    constructor <;> linarith

theorem down_of_between (sign : Bool) (hlo : k < z) (hhi : z < k + 1) :
    RoundsToInt 2 (applySign sign z) (applySign sign ((if sign then k + 1 else k : ℕ) : ℤ)) := by
  simp only [RoundsToInt, cast_applySign_nat]
  cases sign
  · exact ⟨hlo.le, hhi⟩
  · rw [applySign_true, applySign_true, if_pos rfl]
    push_cast
    constructor <;> linarith

theorem up_of_between (sign : Bool) (hlo : k < z) (hhi : z < k + 1) :
    RoundsToInt 3 (applySign sign z) (applySign sign ((if !sign then k + 1 else k : ℕ) : ℤ)) := by
  simp only [RoundsToInt, cast_applySign_nat]
  cases sign
  · rw [applySign_false, applySign_false, Bool.not_false, if_pos rfl]
    push_cast
    constructor <;> linarith
  · rw [applySign_true, applySign_true, Bool.not_true, if_neg Bool.false_ne_true]
    constructor <;> linarith

/-- A rounded magnitude with its sign is what the rounding mode makes of the signed number. -/
theorem RoundsMag.roundsToInt (h : RoundsMag rm sign z r) (hrm : rm.toNat < 5) :
    RoundsToInt rm (applySign sign z) (applySign sign (r.1 : ℤ)) := by
  cases h with
  | exact n hz =>
    rw [hz, ← cast_applySign_nat]
    exact roundsToInt_self hrm _
  | inexact k cmp hlo hhi hcmp =>
    have hk : (0 : K) ≤ k := Nat.cast_nonneg k
    rcases rm_cases hrm with rfl | rfl | rfl | rfl | rfl
    · obtain ⟨hnear, htie⟩ := nearest_of_againstHalf hlo hhi hcmp (up := roundsUp 0 sign (k % 2 == 1) cmp)
        (by rintro rfl; rfl) (by rintro rfl; rfl)
      simp only [RoundsToInt, abs_applySign_sub]
      refine ⟨hnear, fun h => ?_⟩
      obtain rfl := htie h
      exact even_of_tie sign k
    · exact towardsZero_of_between sign hlo hhi
    · exact down_of_between sign hlo hhi
    · exact up_of_between sign hlo hhi
    · obtain ⟨hnear, htie⟩ := nearest_of_againstHalf hlo hhi hcmp (up := roundsUp 4 sign (k % 2 == 1) cmp)
        (by rintro rfl; rfl) (by rintro rfl; rfl)
      simp only [RoundsToInt, abs_applySign_sub]
      refine ⟨hnear, fun h => ?_⟩
      obtain rfl := htie h
      rw [cast_applySign_nat, abs_applySign, abs_applySign, abs_of_pos (hk.trans_lt hlo), Nat.abs_cast]
      exact hhi.trans_eq (Nat.cast_succ k).symm

theorem RoundsMag.exact_iff (h : RoundsMag rm sign z r) : r.2 = false ↔ z = r.1 := by
  cases h with
  | exact n hz => exact ⟨fun _ => hz, fun _ => rfl⟩
  | inexact k cmp hlo hhi hcmp =>
    refine ⟨fun h => Bool.noConfusion h, fun h => ?_⟩
    rw [h] at hlo hhi
    norm_cast at hlo hhi
    omega

/-- Rounding does not pass an integer from above. -/
theorem RoundsMag.le_of_le (h : RoundsMag rm sign z r) {n : ℕ} (hn : n ≤ z) : n ≤ r.1 := by
  cases h with
  | exact m hz => exact Nat.cast_le.1 (hn.trans hz.le)
  | inexact k cmp hlo hhi hcmp =>
    have hlt : n < k + 1 := by exact_mod_cast hn.trans_lt hhi
    dsimp only
    split <;> omega

/-- Rounding does not pass an integer from below. -/
theorem RoundsMag.le_of_ge (h : RoundsMag rm sign z r) {n : ℕ} (hn : z ≤ n) : r.1 ≤ n := by
  cases h with
  | exact m hz => exact Nat.cast_le.1 (hz.symm.le.trans hn)
  | inexact k cmp hlo hhi hcmp =>
    have hlt : k < n := by exact_mod_cast hlo.trans_le hn
    dsimp only
    split <;> omega

/-! ### What the model keeps -/

/-- The kept integer `m` stands for the magnitude `y`: it is `y`, or `y` lies strictly between the neighbours of `m`,
whose lowest bit says that a part is lost. -/
def StandsFor (m : ℕ) (y : K) : Prop := y = m ∨ (m % 2 = 1 ∧ (m : K) - 1 < y ∧ y < m + 1)

/-- A magnitude lies on the same side of an integer as what stands for it. -/
theorem StandsFor.between {y : K} {m a b : ℕ} (h : StandsFor m y) (ha : a < m) (hb : m < b) : (a : K) < y ∧ y < b := by
  have ha' : (a : K) + 1 ≤ m := by exact_mod_cast ha
  have hb' : (m : K) + 1 ≤ b := by exact_mod_cast hb
  rcases h with rfl | ⟨-, hlo, hhi⟩
  · exact ⟨by linarith, by linarith⟩
  · exact ⟨by linarith, by linarith⟩

omit [IsStrictOrderedRing K] in
/-- An even integer stands for itself alone. -/
theorem StandsFor.eq_of_even {y : K} {m : ℕ} (h : StandsFor m y) (hm : m % 2 = 0) : y = m := by
  rcases h with rfl | ⟨hodd, -, -⟩
  · rfl
  · omega

theorem kept_add_lost_mod_two (kept lost j : ℕ) : (kept * 2 ^ (j + 1) + lost) % 2 = lost % 2 := by
  rw [Nat.pow_succ', Nat.mul_left_comm, Nat.mul_add_mod]

/-- The comparison of the lost part with a half, where two bits or more are lost or nothing was lost before. -/
theorem StandsFor.againstHalf {y : K} {kept lost j : ℕ} (hy : StandsFor (kept * 2 ^ (j + 1) + lost) y)
    (hlost : 0 < lost) (hj : y = (kept * 2 ^ (j + 1) + lost : ℕ) ∨ 1 ≤ j) :
    AgainstHalf (compare (2 * lost) (2 ^ (j + 1))) (y / 2 ^ (j + 1)) kept := by
  have hp : (0 : K) < 2 ^ (j + 1) := by positivity
  have hz : 2 * (y / 2 ^ (j + 1) - kept) = 2 * (y - kept * 2 ^ (j + 1)) / 2 ^ (j + 1) := by field_simp
  have hhalf : (2 : ℕ) ^ (j + 1) = 2 * 2 ^ j := Nat.pow_succ'
  have hhalfK : (2 : K) ^ (j + 1) = 2 * 2 ^ j := pow_succ' 2 j
  rcases lt_trichotomy (2 * lost) (2 ^ (j + 1)) with h | h | h
  · rw [compare_lt_iff_lt.2 h]
    have hy' := (hy.between (a := kept * 2 ^ (j + 1)) (b := kept * 2 ^ (j + 1) + 2 ^ j) (by omega) (by omega)).2
    push_cast at hy'
    show 2 * (y / 2 ^ (j + 1) - kept) < 1
    rw [hz, div_lt_one hp]
    linarith
  · rw [compare_eq_iff_eq.2 h]
    have hy' : y = (kept * 2 ^ (j + 1) + lost : ℕ) := by
      refine hj.elim id fun hj => hy.eq_of_even ?_
      obtain ⟨i, rfl⟩ : ∃ i, j = i + 1 := ⟨j - 1, by omega⟩
      have hi : (2 : ℕ) ^ (i + 1) = 2 * 2 ^ i := Nat.pow_succ'
      obtain rfl : lost = 2 * 2 ^ i := by omega
      rw [kept_add_lost_mod_two, Nat.mul_mod_right]
    have hlostK : (2 : K) * lost = 2 ^ (j + 1) := by exact_mod_cast h
    show 2 * (y / 2 ^ (j + 1) - kept) = 1
    rw [hz, div_eq_one_iff_eq hp.ne', hy']
    push_cast
    linarith
  · rw [compare_gt_iff_gt.2 h]
    have hy' := (hy.between (a := kept * 2 ^ (j + 1) + 2 ^ j) (b := kept * 2 ^ (j + 1) + lost + 1) (by omega) (by omega)).1
    push_cast at hy'
    show 1 < 2 * (y / 2 ^ (j + 1) - kept)
    rw [hz, one_lt_div hp]
    linarith

/-- Rounding the kept integer rounds the magnitude it stands for, where it is that magnitude or loses two bits. -/
theorem roundAt_roundsMag {y : K} {m : ℕ} {e q : ℤ} (hy : StandsFor m y) (hq : y = m ∨ e + 2 ≤ q) :
    RoundsMag rm sign (y * 2 ^ e / 2 ^ q) (roundAt rm sign m e q) := by
  have htwo : (2 : K) ≠ 0 := two_ne_zero
  unfold roundAt
  split
  · rename_i hle
    rcases hq with rfl | hq
    · refine .exact _ ?_
      rw [Nat.shiftLeft_eq, mul_div_assoc, ← zpow_sub₀ htwo]
      push_cast
      rw [← zpow_natCast, Int.toNat_of_nonneg (by omega)]
    · omega
  · rename_i hlt
    obtain ⟨j, hj⟩ : ∃ j : ℕ, (q - e).toNat = j + 1 := ⟨(q - e).toNat - 1, by omega⟩
    have hz : y * 2 ^ e / 2 ^ q = y / 2 ^ (j + 1) := by
      rw [mul_div_assoc, ← zpow_sub₀ htwo, show e - q = -((j + 1 : ℕ) : ℤ) by omega, zpow_neg, zpow_natCast, div_eq_mul_inv]
    have hp : (0 : K) < 2 ^ (j + 1) := by positivity
    have hm : m = m >>> (j + 1) * 2 ^ (j + 1) + m % 2 ^ (j + 1) := by
      rw [Nat.shiftRight_eq_div_pow, Nat.div_add_mod']
    have hlt' := Nat.mod_lt m (Nat.two_pow_pos (j + 1))
    have hj' : y = m ∨ 1 ≤ j := hq.imp_right fun _ => by omega
    rw [hz, hj]
    dsimp only
    generalize m >>> (j + 1) = kept at hm ⊢
    generalize m % 2 ^ (j + 1) = lost at hm hlt' ⊢
    subst hm
    split
    · rename_i h0
      subst h0
      have hy' := hy.eq_of_even (kept_add_lost_mod_two _ _ _)
      refine .exact _ ?_
      rw [hy']
      push_cast
      field_simp
      ring
    · rename_i h0
      have hpos : 0 < lost := Nat.pos_of_ne_zero h0
      obtain ⟨hlo, hhi⟩ := hy.between (a := kept * 2 ^ (j + 1)) (b := (kept + 1) * 2 ^ (j + 1)) (by omega)
        (by rw [Nat.add_mul]; omega)
      push_cast at hlo hhi
      exact .inexact kept _ ((lt_div_iff₀ hp).2 hlo) ((div_lt_iff₀ hp).2 hhi) (hy.againstHalf hpos hj')

end

/-! ### Conversions to integers -/

/-- The value of `± m * 2^e`. -/
def Fin2.value (v : Fin2) : ℚ := applySign v.sign (v.m * 2 ^ v.e)

theorem unpack_value (f : Fmt) (a : BitVec 64) : (unpack f a).value = fpValue f a := by
  have hsign : ∀ y : ℚ, applySign (signOf f a) y = (if signOf f a then -1 else 1) * y := fun y => by
    cases signOf f a <;> simp
  rw [fpValue, ← hsign, unpack, fpExp_eq, fpFrac_eq, fpSign_eq, minQ_eq, frac_eq]
  split
  · rfl
  · rw [Fin2.value]
    push_cast
    rw [add_comm (fracOf f a : ℚ), add_sub_assoc]

section
variable {f : Fmt} {rm : Rm} {w : Nat} {sg : Bool} {a : BitVec 64}

theorem ieeeToInt_nan (h : FpNaN f a) : ieeeToInt f rm w sg a = (BitVec.ofInt 64 (intBounds w sg).2, 0b10000#5) := by
  rw [ieeeToInt, isNaN_iff.2 h]
  rfl

theorem ieeeToInt_inf (h : FpInf f a) : ieeeToInt f rm w sg a =
    (BitVec.ofInt 64 (if signOf f a then (intBounds w sg).1 else (intBounds w sg).2), 0b10000#5) := by
  rw [ieeeToInt, h.isNaN, h.isInf, fpSign_eq]
  rfl

theorem intBounds_le (w : Nat) (sg : Bool) : (intBounds w sg).1 ≤ (intBounds w sg).2 := by
  have h1 : (1 : ℤ) ≤ 2 ^ (w - 1) := one_le_pow₀ (by decide)
  have h2 : (1 : ℤ) ≤ 2 ^ w := one_le_pow₀ (by decide)
  cases sg
  · exact sub_nonneg.2 h2
  · show (-2 ^ (w - 1) : ℤ) ≤ 2 ^ (w - 1) - 1
    linarith

/-- The rounded integer of a finite operand. -/
def roundedInt (f : Fmt) (rm : Rm) (a : BitVec 64) : ℤ :=
  applySign (unpack f a).sign ((roundAt rm (unpack f a).sign (unpack f a).m (unpack f a).e 0).1 : ℤ)

/-- The integer is the value's, and the model says that it is inexact where it differs from the value. -/
theorem roundedInt_spec (f : Fmt) (hrm : rm.toNat < 5) (a : BitVec 64) :
    RoundsToInt rm (fpValue f a) (roundedInt f rm a)
    ∧ ((roundAt rm (unpack f a).sign (unpack f a).m (unpack f a).e 0).2 = false ↔ (roundedInt f rm a : ℚ) = fpValue f a) := by
  have h := roundAt_roundsMag (K := ℚ) (rm := rm) (sign := (unpack f a).sign) (m := (unpack f a).m) (e := (unpack f a).e)
    (q := 0) (.inl rfl) (.inl rfl)
  rw [zpow_zero, div_one] at h
  rw [← unpack_value, Fin2.value, roundedInt, cast_applySign_nat, applySign_inj, eq_comm (b := _ * _)]
  exact ⟨h.roundsToInt hrm, h.exact_iff⟩

theorem ieeeToInt_finite (h : fpFinite f a) : ieeeToInt f rm w sg a =
    if roundedInt f rm a < (intBounds w sg).1 then (BitVec.ofInt 64 (intBounds w sg).1, 0b10000#5)
    else if (intBounds w sg).2 < roundedInt f rm a then (BitVec.ofInt 64 (intBounds w sg).2, 0b10000#5)
    else (BitVec.ofInt 64 (roundedInt f rm a),
      if (roundAt rm (unpack f a).sign (unpack f a).m (unpack f a).e 0).2 then 0b00001#5 else 0#5) := by
  rw [ieeeToInt, h.isNaN, h.isInf]
  rfl

end

/-- Settles O52: each form writes the result of `FpArith`; the default one rounds to an integer and compares it with the
bounds. -/
theorem fpToIntegerResults : Obligations.FpToIntegerResults := by
  refine ⟨fun rd rs1 rm m s hfs hm => ?instructions, fun f w sg rm a b c _ hrm hp => ?table⟩
  case instructions =>
    dsimp only
    refine ⟨?_, ?_, ?wide1, ?wide2, ?_, ?_, ?wide3, ?wide4⟩
    case wide1 | wide2 | wide3 | wide4 => exact givesXFlags_rounded hfs hm rfl rfl (.nat _ _)
    all_goals exact givesXFlags_rounded hfs hm rfl rfl (.sext32 rfl)
  case table =>
    dsimp only [fpArith, ieeeArith]
    refine ⟨?nan, fun ⟨hinf, hneg⟩ => ?negative, fun hfin => ⟨roundedInt f rm a, (roundedInt_spec f hrm a).1, ?_, ?_, ?_⟩⟩
    case nan =>
      rintro (hnan | ⟨hinf, hpos⟩)
      · exact ieeeToInt_nan hnan
      · rw [ieeeToInt_inf hinf, hpos]
        rfl
    case negative =>
      rw [ieeeToInt_inf hinf, hneg]
      rfl
    all_goals rw [ieeeToInt_finite hfin]
    · exact fun hlt => if_pos hlt
    · intro hgt
      rw [if_neg (not_lt.2 ((intBounds_le w sg).trans hgt.le)), if_pos hgt]
    · intro hlo hhi
      rw [if_neg (not_lt.2 hlo), if_neg (not_lt.2 hhi)]
      have hexact := (roundedInt_spec f hrm a).2
      congr 1
      by_cases hv : (roundedInt f rm a : ℚ) = fpValue f a
      · rw [hexact.2 hv, if_pos hv]
        rfl
      · rw [eq_true_of_ne_false (mt hexact.1 hv), if_neg hv, if_pos rfl]

end Sys2Proof.Machine
end

section
/-!
Rounding into a format (47_float_f.md rules R661, R668): the model's rounding of a number that it holds exactly, or with
its lost part in the lowest bit, is what `RoundsTo` says.
-/

namespace Sys2Proof.Machine

section
variable {K : Type} [Field K] [LinearOrder K] [IsStrictOrderedRing K] {f : Fmt} {rm : Rm} {sign : Bool} {m n : ℕ}
  {e : ℤ} {y : K}

/-! ### Numbers and powers of two -/

theorem two_zpow_pos (k : ℤ) : (0 : K) < 2 ^ k := zpow_pos two_pos k

theorem two_zpow_add_natCast (k : ℤ) (j : ℕ) : (2 : K) ^ (k + j) = 2 ^ j * 2 ^ k := by
  rw [add_comm, zpow_add₀ two_ne_zero, zpow_natCast]

/-! ### Patterns as values -/

/-- The exponent of the least number that no pattern of the format can hold. -/
def overflowExp : Fmt → ℕ
  | .s => 128
  | .d => 1024

/-- The value of a sign and a magnitude. -/
theorem fpValue_fpPattern (h : n < 2 ^ (f.frac + f.expBits)) :
    (fpValue f (fpPattern f sign n) : K) = applySign sign ((magUnits f n : K) * 2 ^ f.minQ) := by
  rw [fpValue_eq, signedUnits, signOf_fpPattern h, fpMag_fpPattern h, minQ_eq]
  cases sign <;> simp

theorem infMag_value (f : Fmt) : (magUnits f f.infMag : K) * 2 ^ f.minQ = 2 ^ overflowExp f := by
  have hmag : f.infMag = (f.maxExp - 1) * 2 ^ f.frac + 2 ^ f.frac := by cases f <;> decide
  have hunits : magUnits f f.infMag = 2 ^ (f.frac + (f.maxExp - 1)) := by
    rw [hmag, magUnits_pack (by omega) (.inr le_rfl), Nat.pow_add]
  have hexp : (overflowExp f : ℤ) = f.minQ + (f.frac + (f.maxExp - 1) : ℕ) := by cases f <;> decide
  rw [hunits, ← zpow_natCast (2 : K) (overflowExp f), hexp, two_zpow_add_natCast, Nat.cast_pow, Nat.cast_ofNat]

/-- A magnitude overflows where it reaches infinity's. -/
theorem overflow_iff : (2 : K) ^ overflowExp f ≤ (magUnits f n : K) * 2 ^ f.minQ ↔ f.infMag ≤ n := by
  rw [← infMag_value, mul_le_mul_iff_left₀ (two_zpow_pos _), Nat.cast_le, (strictMono_magUnits f).le_iff_le]

theorem overflowMag_pattern (hrm : rm.toNat < 5) :
    fpPattern f sign (overflowMag f rm sign) = overflowPattern f rm sign := by
  revert rm
  cases f <;> cases sign <;> decide

/-! ### What can be rounded -/

/-- `m` stands for the magnitude `y`, and is it or has enough bits to be rounded into the format. -/
structure CanRound (f : Fmt) (m : ℕ) (y : K) : Prop where
  ne_zero : m ≠ 0
  stands  : StandsFor m y
  bits    : y = m ∨ f.frac + 2 ≤ m.log2

theorem CanRound.log2_bounds (h : CanRound f m y) : (2 : K) ^ m.log2 ≤ y ∧ y < 2 ^ (m.log2 + 1) := by
  have hlo := Nat.log2_self_le h.ne_zero
  have hhi := @Nat.lt_log2_self m
  rcases h.stands with rfl | ⟨hodd, hlt, hgt⟩
  · exact ⟨by exact_mod_cast hlo, by exact_mod_cast hhi⟩
  · rcases h.bits with rfl | hbits
    · exact ⟨by exact_mod_cast hlo, by exact_mod_cast hhi⟩
    · have heven : 2 ^ m.log2 % 2 = 0 := by
        obtain ⟨k, hk⟩ : ∃ k, m.log2 = k + 1 := ⟨m.log2 - 1, by omega⟩
        rw [hk, Nat.pow_succ, Nat.mul_mod_left]
      have hlo' : 2 ^ m.log2 + 1 ≤ m := by omega
      have hloK : (2 : K) ^ m.log2 + 1 ≤ m := by exact_mod_cast hlo'
      have hhiK : (m : K) + 1 ≤ 2 ^ (m.log2 + 1) := by exact_mod_cast hhi
      exact ⟨by linarith, by linarith⟩

/-- The exponent of the last place of `m * 2^e` in a format without a least exponent. -/
def placeExp (f : Fmt) (m : ℕ) (e : ℤ) : ℤ := m.log2 + e - f.frac

omit [IsStrictOrderedRing K] in
theorem CanRound.placeExp_ge (h : CanRound f m y) (e : ℤ) : y = m ∨ e + 2 ≤ placeExp f m e :=
  h.bits.imp_right fun hb => by unfold placeExp; omega

/-- The magnitude has the hidden bit in units of its last place. -/
theorem CanRound.place_bounds (h : CanRound f m y) (e : ℤ) :
    ((2 ^ f.frac : ℕ) : K) ≤ y * 2 ^ e / 2 ^ placeExp f m e ∧ y * 2 ^ e / 2 ^ placeExp f m e < (2 ^ (f.frac + 1) : ℕ) := by
  have hz : y * 2 ^ e / 2 ^ placeExp f m e = 2 ^ f.frac * (y / 2 ^ m.log2) := by
    rw [placeExp, mul_div_assoc, ← zpow_sub₀ two_ne_zero, show e - (m.log2 + e - f.frac) = (f.frac : ℤ) - m.log2 by ring,
      zpow_sub₀ two_ne_zero, zpow_natCast, zpow_natCast]
    ring
  have hp : (0 : K) < 2 ^ m.log2 := by positivity
  obtain ⟨hlo, hhi⟩ := h.log2_bounds
  rw [hz]
  push_cast
  constructor
  · exact le_mul_of_one_le_right (by positivity) ((one_le_div hp).2 hlo)
  · rw [pow_succ (2 : K) f.frac]
    refine mul_lt_mul_of_pos_left ((div_lt_iff₀ hp).2 ?_) (by positivity)
    rwa [← pow_succ']

theorem CanRound.pos (h : CanRound f m y) : 0 < y :=
  (by positivity : (0 : K) < 2 ^ m.log2).trans_le h.log2_bounds.1

/-- A rounded magnitude has one bit more than the fraction at most, and the hidden bit where its last place is that of the
number. -/
theorem CanRound.rounded_bounds (h : CanRound f m y) {q : ℤ} {r : ℕ × Bool} (hq : placeExp f m e ≤ q)
    (hr : RoundsMag rm sign (y * 2 ^ e / 2 ^ q) r) :
    r.1 ≤ 2 ^ (f.frac + 1) ∧ (q = placeExp f m e → 2 ^ f.frac ≤ r.1) := by
  obtain ⟨hlo, hhi⟩ := h.place_bounds e
  have hy := mul_pos h.pos (two_zpow_pos (K := K) e)
  have hle : y * 2 ^ e / 2 ^ q ≤ y * 2 ^ e / 2 ^ placeExp f m e :=
    div_le_div_of_nonneg_left hy.le (two_zpow_pos _) (zpow_le_zpow_right₀ one_le_two hq)
  refine ⟨hr.le_of_ge (hle.trans hhi.le), ?_⟩
  rintro rfl
  exact hr.le_of_le hlo

/-- The exponent of the last place of `m * 2^e` in a format. -/
def lastExp (f : Fmt) (m : ℕ) (e : ℤ) : ℤ := max (placeExp f m e) f.minQ

/-- The magnitude of the pattern that a rounded magnitude gives. -/
def packedMag (f : Fmt) (m : ℕ) (e : ℤ) (r : ℕ) : ℕ := (lastExp f m e - f.minQ).toNat * 2 ^ f.frac + r

/-- The packed magnitude is worth the rounded one in units of the last place. -/
theorem CanRound.packedMag_value (h : CanRound f m y) {r : ℕ × Bool}
    (hr : RoundsMag rm sign (y * 2 ^ e / 2 ^ lastExp f m e) r) :
    (magUnits f (packedMag f m e r.1) : K) * 2 ^ f.minQ = r.1 * 2 ^ lastExp f m e := by
  obtain ⟨hle, hge⟩ := h.rounded_bounds (le_max_left _ _) hr
  obtain ⟨d, hd⟩ : ∃ d : ℕ, lastExp f m e = f.minQ + d := ⟨(lastExp f m e - f.minQ).toNat, by unfold lastExp; omega⟩
  have hd' : (lastExp f m e - f.minQ).toNat = d := by omega
  have hcase : d = 0 ∨ 2 ^ f.frac ≤ r.1 := by
    by_cases hq : lastExp f m e = placeExp f m e
    · exact .inr (hge hq)
    · refine .inl ?_
      unfold lastExp at hq hd
      omega
  rw [packedMag, hd', magUnits_pack (by rwa [← Nat.pow_succ']) hcase, hd, two_zpow_add_natCast]
  push_cast
  ring

/-- Tininess after rounding: the magnitude rounded without a least exponent is below the least normal. -/
theorem CanRound.tiny_iff (h : CanRound f m y) {r : ℕ × Bool}
    (hr : RoundsMag rm sign (y * 2 ^ e / 2 ^ placeExp f m e) r) :
    (decide (placeExp f m e < f.minQ) && !(decide (placeExp f m e + 1 = f.minQ) && r.1 == 2 ^ f.prec)) = true
      ↔ (r.1 : K) * 2 ^ placeExp f m e < 2 ^ (f.minQ + f.frac) := by
  obtain ⟨hle, hge⟩ := h.rounded_bounds le_rfl hr
  replace hge := hge rfl
  have hleK : (r.1 : K) ≤ 2 ^ (f.frac + 1) := by exact_mod_cast hle
  have hgeK : (2 : K) ^ f.frac ≤ r.1 := by exact_mod_cast hge
  have hp := two_zpow_pos (K := K)
  rw [Bool.and_eq_true, decide_eq_true_iff, Bool.not_eq_true', Bool.and_eq_false_iff, decide_eq_false_iff_not,
    beq_eq_false_iff_ne, Fmt.prec, two_zpow_add_natCast]
  generalize placeExp f m e = p at *
  have hsucc : (2 : K) ^ (p + 1) = 2 * 2 ^ p := by rw [zpow_add₀ two_ne_zero, zpow_one, mul_comm]
  rcases lt_trichotomy (p + 1) f.minQ with hp1 | hp1 | hp1
  · refine iff_of_true ⟨by omega, .inl hp1.ne⟩ ?_
    calc (r.1 : K) * 2 ^ p ≤ 2 ^ (f.frac + 1) * 2 ^ p := mul_le_mul_of_nonneg_right hleK (hp p).le
      _ = 2 ^ f.frac * 2 ^ (p + 1) := by rw [hsucc, pow_succ, mul_assoc]
      _ < 2 ^ f.frac * 2 ^ f.minQ :=
        mul_lt_mul_of_pos_left (zpow_lt_zpow_right₀ one_lt_two hp1) (by positivity)
  · rw [← hp1, hsucc, ← mul_assoc, ← pow_succ, mul_lt_mul_iff_left₀ (hp p), iff_true_intro (lt_add_one p), true_and,
      or_iff_right (by simp)]
    norm_cast
    omega
  · refine iff_of_false (by omega) (not_lt.2 ?_)
    exact mul_le_mul hgeK (zpow_le_zpow_right₀ one_le_two (by omega)) (hp _).le (Nat.cast_nonneg _)

/-! ### Rounding into the format -/

/-- The number that the rounded magnitude stands for is the exact one where nothing was lost. -/
theorem exact_iff_value {r : ℕ × Bool} {q : ℤ} (hr : RoundsMag rm sign (y * 2 ^ e / 2 ^ q) r) :
    r.2 = false ↔ (r.1 : K) * 2 ^ q = y * 2 ^ e := by
  rw [hr.exact_iff, div_eq_iff (two_zpow_pos q).ne', eq_comm]

/-- The magnitude that a number is rounded to, with its lost-part mark, in units of its last place. -/
def rounded (f : Fmt) (rm : Rm) (v : Fin2) : ℕ × Bool := roundAt rm v.sign v.m v.e (lastExp f v.m v.e)

/-- The same without a least exponent. -/
def roundedUnbounded (f : Fmt) (rm : Rm) (v : Fin2) : ℕ × Bool := roundAt rm v.sign v.m v.e (placeExp f v.m v.e)

theorem roundPack_eq (f : Fmt) (rm : Rm) (v : Fin2) : roundPack f rm v =
    if f.infMag ≤ packedMag f v.m v.e (rounded f rm v).1 then (fpPattern f v.sign (overflowMag f rm v.sign), 0b00101#5)
    else (fpPattern f v.sign (packedMag f v.m v.e (rounded f rm v).1),
      if (rounded f rm v).2 then
        if decide (placeExp f v.m v.e < f.minQ)
          && !(decide (placeExp f v.m v.e + 1 = f.minQ) && (roundedUnbounded f rm v).1 == 2 ^ f.prec)
        then 0b00011#5 else 0b00001#5
      else 0b00000#5) := rfl

section
variable {v : Fin2} {x : K}

theorem CanRound.rounded (h : CanRound f v.m y) :
    RoundsMag rm v.sign (y * 2 ^ v.e / 2 ^ lastExp f v.m v.e) (rounded f rm v) :=
  roundAt_roundsMag h.stands ((h.placeExp_ge v.e).imp_right fun hp => hp.trans (le_max_left _ _))

theorem CanRound.roundedUnbounded (h : CanRound f v.m y) :
    RoundsMag rm v.sign (y * 2 ^ v.e / 2 ^ placeExp f v.m v.e) (roundedUnbounded f rm v) :=
  roundAt_roundsMag h.stands (h.placeExp_ge v.e)

theorem CanRound.top_bounds (h : CanRound f m y) (e : ℤ) :
    (2 : K) ^ (m.log2 + e) ≤ y * 2 ^ e ∧ y * 2 ^ e < 2 ^ (m.log2 + e + 1) := by
  obtain ⟨hlo, hhi⟩ := h.log2_bounds
  have hp := two_zpow_pos (K := K) e
  rw [show (m.log2 : ℤ) + e + 1 = e + (m.log2 + 1 : ℕ) by push_cast; ring, add_comm _ e, two_zpow_add_natCast,
    two_zpow_add_natCast]
  exact ⟨mul_le_mul_of_nonneg_right hlo hp.le, mul_lt_mul_of_pos_right hhi hp⟩

/-- What a number too large for the format gives (rule R668, OF). -/
theorem CanRound.roundPack_overflow (h : CanRound f v.m y) (hrm : rm.toNat < 5)
    (hge : 2 ^ overflowExp f ≤ ((Machine.rounded f rm v).1 : K) * 2 ^ lastExp f v.m v.e) :
    roundPack f rm v = (overflowPattern f rm v.sign, 5#5) := by
  rw [← h.packedMag_value h.rounded, overflow_iff] at hge
  rw [roundPack_eq, if_pos hge, overflowMag_pattern hrm]

/-- What a number that the format can hold gives: its pattern, and the flags by what was lost and by tininess. -/
theorem CanRound.roundPack_fits (h : CanRound f v.m y)
    (hlt : ((Machine.rounded f rm v).1 : K) * 2 ^ lastExp f v.m v.e < 2 ^ overflowExp f) :
    fpFinite f (roundPack f rm v).1 ∧ signOf f (roundPack f rm v).1 = v.sign
    ∧ (fpValue f (roundPack f rm v).1 : K) = applySign v.sign (((Machine.rounded f rm v).1 : K) * 2 ^ lastExp f v.m v.e)
    ∧ (roundPack f rm v).2 = if ((Machine.rounded f rm v).1 : K) * 2 ^ lastExp f v.m v.e = y * 2 ^ v.e then 0#5
      else if ((Machine.roundedUnbounded f rm v).1 : K) * 2 ^ placeExp f v.m v.e < 2 ^ (f.minQ + f.frac) then 3#5 else 1#5 := by
  rw [← h.packedMag_value h.rounded, ← not_le, overflow_iff] at hlt
  have hmag := (not_le.1 hlt).trans (infMag_lt f)
  have hexact := exact_iff_value (h.rounded (rm := rm))
  rw [roundPack_eq, if_neg hlt]
  refine ⟨fpFinite_iff_mag.2 ⟨isPattern_fpPattern hmag, ?_⟩, signOf_fpPattern hmag, ?_, ?_⟩
  · rw [fpMag_fpPattern hmag]
    exact not_le.1 hlt
  · rw [fpValue_fpPattern hmag, h.packedMag_value h.rounded]
  · simp only [← h.tiny_iff h.roundedUnbounded, ← hexact]
    cases (Machine.rounded f rm v).2 <;> rfl

/-- The model's rounding is the rounding of the number it stands for. -/
theorem CanRound.roundsTo (h : CanRound f v.m y) (hrm : rm.toNat < 5) (hx : x = applySign v.sign (y * 2 ^ v.e)) :
    RoundsTo f rm x (roundPack f rm v) := by
  have hy : 0 < y * 2 ^ v.e := mul_pos h.pos (two_zpow_pos v.e)
  have hneg : decide (x < 0) = v.sign := by
    rw [hx]
    cases v.sign
    · exact decide_eq_false hy.not_gt
    · exact decide_eq_true (neg_lt_zero.2 hy)
  have habs : |x| = y * 2 ^ v.e := by rw [hx, abs_applySign, abs_of_pos hy]
  have hmag : ∀ (n : ℕ) (q : ℤ), |((applySign v.sign (n : ℤ) : ℤ) : K) * 2 ^ q| = n * 2 ^ q := fun n q => by
    rw [abs_mul, cast_applySign_nat, abs_applySign, Nat.abs_cast, abs_of_pos (two_zpow_pos q)]
  obtain ⟨hlo, hhi⟩ := h.top_bounds v.e
  unfold RoundsTo
  rw [← frac_eq, ← minQ_eq, habs, hneg]
  refine ⟨v.m.log2 + v.e, applySign v.sign ((Machine.rounded f rm v).1 : ℤ),
    applySign v.sign ((Machine.roundedUnbounded f rm v).1 : ℤ), hlo, hhi, ?_, ?_, fun hge => ?_, fun hlt => ?_⟩
  · rw [hx, ← applySign_div]
    exact h.rounded.roundsToInt hrm
  · rw [hx, ← applySign_div]
    exact h.roundedUnbounded.roundsToInt hrm
  · rw [hmag] at hge
    exact h.roundPack_overflow hrm (by cases f <;> exact hge)
  · rw [hmag] at hlt
    obtain ⟨hfin, hsign, hval, hflags⟩ := h.roundPack_fits (rm := rm) (by cases f <;> exact hlt)
    rw [hmag, cast_applySign_nat, ← applySign_mul, hx, applySign_inj]
    exact ⟨hfin, hsign, hval, fun heq => hflags.trans (if_pos heq),
      fun hne htiny => hflags.trans ((if_neg fun h => hne (congrArg _ h)).trans (if_pos htiny)),
      fun hne hbig => hflags.trans ((if_neg fun h => hne (congrArg _ h)).trans (if_neg (not_lt.2 hbig)))⟩

end

end

end Sys2Proof.Machine
end

section
/-!
Arithmetic on finite operands (47_float_f.md rules R661, R669, R672 to R680, R694 to R697): each operation's exact result,
as a sum, a product, a quotient or a root of the operands' values, and the model's rounding of it.
-/

namespace Sys2Proof.Machine

variable {f : Fmt} {rm : Rm} {a b c : BitVec 64}

/-! ### A rounded result -/

/-- A result and its flags are those of an exact result `x`, rounded; an exact zero has the given sign and no flag. -/
def GivesRounded (f : Fmt) (rm : Rm) (x : ℚ) (zeroSign : Bool) (r : BitVec 64 × BitVec 5) : Prop :=
  (x ≠ 0 → RoundsTo f rm x r) ∧ (x = 0 → r = (zeroPattern f zeroSign, 0))

theorem Fin2.value_eq_zero_iff (v : Fin2) : v.value = 0 ↔ v.m = 0 := by
  have hp := (two_zpow_pos (K := ℚ) v.e).ne'
  rw [Fin2.value]
  cases v.sign <;> simp [hp]

theorem roundPack_roundsTo {v : Fin2} (hrm : rm.toNat < 5) (hm : v.m ≠ 0) : RoundsTo f rm v.value (roundPack f rm v) :=
  CanRound.roundsTo ⟨hm, .inl rfl, .inl rfl⟩ hrm rfl

theorem roundResult_gives (hrm : rm.toNat < 5) {v : Fin2} {x : ℚ} {zeroSign : Bool} (hx : v.value = x)
    (hs : v.m = 0 → v.sign = zeroSign) : GivesRounded f rm x zeroSign (roundResult f rm v) := by
  subst hx
  rw [GivesRounded, ne_eq, Fin2.value_eq_zero_iff, roundResult]
  refine ⟨fun hm => ?_, fun hm => ?_⟩
  · rw [if_neg hm]
    exact roundPack_roundsTo hrm hm
  · rw [if_pos hm, hs hm, fpPattern_zero]
    rfl

/-- A rounded result without a flag is exact. -/
theorem GivesRounded.exact {x : ℚ} {zeroSign : Bool} {r : BitVec 64 × BitVec 5} (h : GivesRounded f rm x zeroSign r)
    (hr : r.2 = 0) : fpValue f r.1 = x := by
  by_cases hx : x = 0
  · rw [h.2 hx, fpValue_zeroPattern, hx]
  · obtain ⟨top, n, n', -, -, -, -, hover, hfits⟩ := h.1 hx
    rcases le_or_gt (2 ^ overflowExp f) |(n : ℚ) * 2 ^ max (top - fracBits f) (leastExp f)| with hge | hlt
    · have hflags : r.2 = 5#5 := congrArg Prod.snd (hover (by cases f <;> exact hge))
      exact absurd (hr.symm.trans hflags) (by decide)
    · obtain ⟨-, -, hval, -, htiny, hinexact⟩ := hfits (by cases f <;> exact hlt)
      rw [Rat.cast_id] at hval
      by_contra hne
      rw [hval] at hne
      rcases lt_or_ge |(n' : ℚ) * 2 ^ (top - fracBits f)| (2 ^ (leastExp f + fracBits f)) with hlt' | hge'
      · exact absurd (hr.symm.trans (htiny hne hlt')) (by decide)
      · exact absurd (hr.symm.trans (hinexact hne hge')) (by decide)

/-! ### Sums -/

/-- The sign of an exact zero sum (rule R669). -/
def sumSign (rm : Rm) (p q : Bool) : Bool := if p = q then p else rm == 2

/-- The sum of two numbers in units of the lesser of their exponents. -/
def alignedSum (a b : Fin2) : ℤ :=
  applySign a.sign ((a.m <<< (a.e - min a.e b.e).toNat : ℕ) : ℤ)
    + applySign b.sign ((b.m <<< (b.e - min a.e b.e).toNat : ℕ) : ℤ)

theorem exactAdd_eq (rm : Rm) (a b : Fin2) : exactAdd rm a b =
    if alignedSum a b = 0 then ⟨sumSign rm a.sign b.sign, 0, min a.e b.e⟩
    else ⟨decide (alignedSum a b < 0), (alignedSum a b).natAbs, min a.e b.e⟩ := rfl

/-- A signed integer in units of `2^e`. -/
theorem value_natAbs (n e : ℤ) : Fin2.value ⟨decide (n < 0), n.natAbs, e⟩ = n * 2 ^ e := by
  rw [Fin2.value, applySign_mul]
  rcases lt_or_ge n 0 with hn | hn
  · rw [decide_eq_true hn, applySign_true, Nat.cast_natAbs, abs_of_neg hn]
    push_cast
    ring
  · rw [decide_eq_false hn.not_gt, applySign_false, Nat.cast_natAbs, abs_of_nonneg hn]

theorem aligned_value {v : Fin2} {e : ℤ} (he : e ≤ v.e) :
    ((applySign v.sign ((v.m <<< (v.e - e).toNat : ℕ) : ℤ) : ℤ) : ℚ) * 2 ^ e = v.value := by
  obtain ⟨j, hj⟩ : ∃ j : ℕ, v.e = e + j := ⟨(v.e - e).toNat, by omega⟩
  rw [cast_applySign_nat, ← applySign_mul, Fin2.value, show (v.e - e).toNat = j by omega, Nat.shiftLeft_eq, hj,
    two_zpow_add_natCast]
  push_cast
  rw [mul_assoc]

theorem exactAdd_value (rm : Rm) (a b : Fin2) : (exactAdd rm a b).value = a.value + b.value := by
  have hsum : (alignedSum a b : ℚ) * 2 ^ min a.e b.e = a.value + b.value := by
    rw [alignedSum, Int.cast_add, add_mul, aligned_value (min_le_left _ _), aligned_value (min_le_right _ _)]
  rw [exactAdd_eq, ← hsum]
  split
  · rename_i h0
    rw [h0, Int.cast_zero, zero_mul, Fin2.value_eq_zero_iff]
  · exact value_natAbs _ _

theorem exactAdd_sign {a b : Fin2} (h : (exactAdd rm a b).m = 0) : (exactAdd rm a b).sign = sumSign rm a.sign b.sign := by
  rw [exactAdd_eq] at h ⊢
  split at h
  · rename_i h0
    rw [if_pos h0]
  · rename_i h0
    exact absurd (Int.natAbs_eq_zero.1 h) h0

theorem exactAdd_gives (hrm : rm.toNat < 5) {a b : Fin2} {x : ℚ} (hx : a.value + b.value = x) :
    GivesRounded f rm x (sumSign rm a.sign b.sign) (roundResult f rm (exactAdd rm a b)) :=
  roundResult_gives hrm ((exactAdd_value rm a b).trans hx) exactAdd_sign

theorem unpack_sign (f : Fmt) (a : BitVec 64) : (unpack f a).sign = signOf f a := by
  rw [unpack, fpSign_eq]
  split <;> rfl

theorem ieeeAdd_gives (hrm : rm.toNat < 5) (ha : fpFinite f a) (hb : fpFinite f b) :
    GivesRounded f rm (fpValue f a + fpValue f b) (sumSign rm (signOf f a) (signOf f b)) (ieeeAdd f rm a b) := by
  have h : ieeeAdd f rm a b = roundResult f rm (exactAdd rm (unpack f a) (unpack f b)) := by
    simp [ieeeAdd, ha.isNaN, hb.isNaN, ha.isInf, hb.isInf]
  rw [h, ← unpack_sign, ← unpack_sign]
  exact exactAdd_gives hrm (by rw [unpack_value, unpack_value])

/-! ### Differences -/

theorem signOf_fpNeg (f : Fmt) (b : BitVec 64) : signOf f (fpNeg f b) = !signOf f b := by
  rw [fpNeg, signOf_fpPattern (fpMag_lt f b), fpSign_eq]

theorem fpMag_fpNeg (f : Fmt) (b : BitVec 64) : fpMag f (fpNeg f b) = fpMag f b := fpMag_fpPattern (fpMag_lt f b)

theorem isPattern_fpNeg (f : Fmt) (b : BitVec 64) : IsPattern f (fpNeg f b) := isPattern_fpPattern (fpMag_lt f b)

theorem fpValue_fpNeg (f : Fmt) (b : BitVec 64) : fpValue f (fpNeg f b) = -fpValue f b := by
  rw [fpValue_eq, fpValue_eq, signedUnits, signedUnits, signOf_fpNeg, fpMag_fpNeg]
  cases signOf f b <;> simp

theorem fpFinite_fpNeg (h : fpFinite f b) : fpFinite f (fpNeg f b) := by
  rw [fpFinite_iff_mag, fpMag_fpNeg]
  exact ⟨isPattern_fpNeg f b, (fpFinite_iff_mag.1 h).2⟩

theorem ieeeSub_eq (ha : isNaN f a = false) (hb : isNaN f b = false) :
    ieeeSub f rm a b = ieeeAdd f rm a (fpNeg f b) := by
  simp [ieeeSub, ha, hb]

theorem ieeeSub_gives (hrm : rm.toNat < 5) (ha : fpFinite f a) (hb : fpFinite f b) :
    GivesRounded f rm (fpValue f a - fpValue f b) (sumSign rm (signOf f a) (!signOf f b)) (ieeeSub f rm a b) := by
  rw [ieeeSub_eq ha.isNaN hb.isNaN, sub_eq_add_neg, ← fpValue_fpNeg, ← signOf_fpNeg]
  exact ieeeAdd_gives hrm ha (fpFinite_fpNeg hb)

/-! ### Products and fused forms -/

theorem applySign_bne (p q : Bool) (x y : ℚ) : applySign (p != q) (x * y) = applySign p x * applySign q y := by
  cases p <;> cases q <;> simp

theorem exactMul_value (a b : Fin2) : (exactMul a b).value = a.value * b.value := by
  rw [Fin2.value, Fin2.value, Fin2.value, ← applySign_bne, exactMul, zpow_add₀ two_ne_zero]
  push_cast
  congr 1
  ring

theorem ieeeMul_gives (hrm : rm.toNat < 5) (ha : fpFinite f a) (hb : fpFinite f b) :
    GivesRounded f rm (fpValue f a * fpValue f b) (signOf f a != signOf f b) (ieeeMul f rm a b) := by
  have h : ieeeMul f rm a b = roundResult f rm (exactMul (unpack f a) (unpack f b)) := by
    simp [ieeeMul, ha.isNaN, hb.isNaN, ha.isInf, hb.isInf]
  rw [h, ← unpack_sign, ← unpack_sign]
  exact roundResult_gives hrm (by rw [exactMul_value, unpack_value, unpack_value]) fun _ => rfl

/-- A number with its sign turned where a flag says so. -/
theorem value_bne (v : Fin2) (neg : Bool) : Fin2.value { v with sign := v.sign != neg } = applySign neg v.value := by
  unfold Fin2.value
  cases v.sign <;> cases neg <;> simp

theorem ieeeFma_gives (hrm : rm.toNat < 5) (ha : fpFinite f a) (hb : fpFinite f b) (hc : fpFinite f c)
    (negProduct negAddend : Bool) :
    GivesRounded f rm (applySign negProduct (fpValue f a * fpValue f b) + applySign negAddend (fpValue f c))
      (sumSign rm ((signOf f a != signOf f b) != negProduct) (signOf f c != negAddend))
      (ieeeFma f rm negProduct negAddend a b c) := by
  have h : ieeeFma f rm negProduct negAddend a b c = roundResult f rm (exactAdd rm
      { exactMul (unpack f a) (unpack f b) with
        sign := (exactMul (unpack f a) (unpack f b)).sign != negProduct }
      { unpack f c with sign := (unpack f c).sign != negAddend }) := by
    simp [ieeeFma, exactMul, ha.isNaN, hb.isNaN, hc.isNaN, ha.isInf, hb.isInf, hc.isInf, unpack_sign, fpSign_eq]
  rw [h, ← unpack_sign, ← unpack_sign, ← unpack_sign]
  exact exactAdd_gives hrm (by rw [value_bne, value_bne, exactMul_value, unpack_value, unpack_value, unpack_value])

/-! ### Conversions -/

/-- An integer operand is the number it is read as. -/
theorem ieeeOfInt_gives (hrm : rm.toNat < 5) {w : Nat} {sg : Bool} {n : ℤ}
    (h : n = if sg && decide (2 ^ (w - 1) ≤ a.toNat % 2 ^ w) then ((a.toNat % 2 ^ w : ℕ) : ℤ) - 2 ^ w
      else (a.toNat % 2 ^ w : ℕ)) :
    GivesRounded f rm n false (ieeeOfInt f rm w sg a) := by
  rw [ieeeOfInt, ← h]
  refine roundResult_gives hrm ((value_natAbs n 0).trans (by rw [zpow_zero, mul_one])) fun h0 => ?_
  rw [Int.natAbs_eq_zero.1 h0]
  rfl

theorem ieeeCvt_gives (hrm : rm.toNat < 5) (h : fpFinite f.other a) :
    GivesRounded f rm (fpValue f.other a) (signOf f.other a) (ieeeCvt f rm a) := by
  have he : ieeeCvt f rm a = roundResult f rm (unpack f.other a) := by
    simp [ieeeCvt, h.isNaN, h.isInf]
  rw [he]
  exact roundResult_gives hrm (unpack_value _ _) fun _ => unpack_sign _ _

end Sys2Proof.Machine
end

section
/-!
Quotient and square root (47_float_f.md rules R675, R676): the model keeps the integer part of the exact result, and in
one bit below it whether a part is lost; so what it keeps stands for the exact result, with bits enough to be rounded.
-/

namespace Sys2Proof.Machine

variable {f : Fmt} {rm : Rm} {a b : BitVec 64}

/-! ### The lost part in the lowest bit -/

section
variable {K : Type} [Field K] [LinearOrder K] [IsStrictOrderedRing K]

/-- An integer part with a bit below it that says whether anything is lost stands for twice the number. -/
theorem canRound_sticky {n : ℕ} {y : K} {p : Prop} [Decidable p] (hlo : n ≤ y) (hhi : y < n + 1) (hp : p ↔ y = n)
    (hn : 2 ^ (f.frac + 1) ≤ n) : CanRound f (2 * n + if p then 0 else 1) (2 * y) := by
  have hbits : f.frac + 2 ≤ (2 * n + if p then 0 else 1).log2 := by
    have hpow : (2 : ℕ) ^ (f.frac + 2) = 2 * 2 ^ (f.frac + 1) := Nat.pow_succ'
    have hpos := Nat.two_pow_pos (f.frac + 1)
    rw [Nat.le_log2 (by omega)]
    omega
  have hpos := Nat.two_pow_pos (f.frac + 1)
  refine ⟨by omega, ?_, .inr hbits⟩
  by_cases h : p
  · refine .inl ?_
    rw [if_pos h, hp.1 h]
    push_cast
    ring
  · have hlt : (n : K) < y := lt_of_le_of_ne hlo fun he => h (hp.2 he.symm)
    rw [if_neg h]
    refine .inr ⟨by omega, ?_, ?_⟩
    · push_cast
      linarith
    · push_cast
      linarith

end

/-! ### Quotients -/

/-- How far the dividend is shifted. -/
def quotientShift (f : Fmt) (a b : Fin2) : ℕ := f.prec + 3 + b.m.log2 - a.m.log2

theorem stickyDiv_eq (f : Fmt) (a b : Fin2) : stickyDiv f a b =
    ⟨a.sign != b.sign,
      2 * ((a.m <<< quotientShift f a b) / b.m) + (if (a.m <<< quotientShift f a b) % b.m = 0 then 0 else 1),
      a.e - b.e - quotientShift f a b - 1⟩ := rfl

/-- The integer part of the shifted quotient has more bits than the format. -/
theorem quotient_large {a b : Fin2} (ha : a.m ≠ 0) (hb : b.m ≠ 0) :
    2 ^ (f.frac + 1) ≤ (a.m <<< quotientShift f a b) / b.m := by
  rw [Nat.le_div_iff_mul_le (Nat.pos_of_ne_zero hb), Nat.shiftLeft_eq]
  calc 2 ^ (f.frac + 1) * b.m ≤ 2 ^ (f.frac + 1) * 2 ^ (b.m.log2 + 1) := Nat.mul_le_mul_left _ Nat.lt_log2_self.le
    _ = 2 ^ (f.frac + 1 + (b.m.log2 + 1)) := (Nat.pow_add ..).symm
    _ ≤ 2 ^ (a.m.log2 + quotientShift f a b) :=
      Nat.pow_le_pow_right two_pos (by unfold quotientShift Fmt.prec; omega)
    _ = 2 ^ a.m.log2 * 2 ^ quotientShift f a b := Nat.pow_add ..
    _ ≤ a.m * 2 ^ quotientShift f a b := Nat.mul_le_mul_right _ (Nat.log2_self_le ha)

theorem stickyDiv_roundsTo (hrm : rm.toNat < 5) {a b : Fin2} (ha : a.m ≠ 0) (hb : b.m ≠ 0) :
    RoundsTo f rm (a.value / b.value) (roundPack f rm (stickyDiv f a b)) := by
  have hbpos : (0 : ℚ) < b.m := Nat.cast_pos.2 (Nat.pos_of_ne_zero hb)
  have hdm := Nat.div_add_mod (a.m <<< quotientShift f a b) b.m
  have hmod := Nat.mod_lt (a.m <<< quotientShift f a b) (Nat.pos_of_ne_zero hb)
  have hdmQ : (b.m : ℚ) * ((a.m <<< quotientShift f a b) / b.m : ℕ) + ((a.m <<< quotientShift f a b) % b.m : ℕ)
      = (a.m <<< quotientShift f a b : ℕ) := by exact_mod_cast hdm
  have hmodQ : (((a.m <<< quotientShift f a b) % b.m : ℕ) : ℚ) < b.m := by exact_mod_cast hmod
  have hround : CanRound f (stickyDiv f a b).m (2 * (((a.m <<< quotientShift f a b : ℕ) : ℚ) / b.m)) := by
    rw [stickyDiv_eq]
    refine canRound_sticky ?_ ?_ ?_ (quotient_large ha hb)
    · rw [le_div_iff₀ hbpos, ← hdmQ, mul_comm]
      exact le_add_of_nonneg_right (Nat.cast_nonneg _)
    · rw [div_lt_iff₀ hbpos, ← hdmQ]
      linarith
    · rw [div_eq_iff hbpos.ne', ← hdmQ, mul_comm, add_eq_left, Nat.cast_eq_zero]
  refine hround.roundsTo hrm ?_
  have hsign : ∀ x y : ℚ, applySign a.sign x / applySign b.sign y = applySign (a.sign != b.sign) (x / y) := fun x y => by
    cases a.sign <;> cases b.sign <;> simp [neg_div, div_neg]
  rw [stickyDiv_eq, Fin2.value, Fin2.value, hsign, Nat.shiftLeft_eq, zpow_sub₀ two_ne_zero, zpow_sub₀ two_ne_zero,
    zpow_sub₀ two_ne_zero, zpow_natCast, zpow_one]
  push_cast
  congr 1
  field_simp

theorem isZero_eq_false (h : fpValue f a ≠ 0) : isZero f a = false := by
  rw [Bool.eq_false_iff, ne_eq, isZero_iff, ← fpValue_eq_zero_iff]
  exact h

theorem unpack_ne_zero (h : fpValue f a ≠ 0) : (unpack f a).m ≠ 0 := by
  rwa [ne_eq, ← Fin2.value_eq_zero_iff, unpack_value]

theorem ieeeDiv_gives (hrm : rm.toNat < 5) (ha : fpFinite f a) (hb : fpFinite f b) (hb0 : fpValue f b ≠ 0) :
    GivesRounded f rm (fpValue f a / fpValue f b) (signOf f a != signOf f b) (ieeeDiv f rm a b) := by
  rw [GivesRounded, div_ne_zero_iff, div_eq_zero_iff, or_iff_left hb0]
  refine ⟨fun ⟨ha0, _⟩ => ?_, fun ha0 => ?_⟩
  · have h : ieeeDiv f rm a b = roundPack f rm (stickyDiv f (unpack f a) (unpack f b)) := by
      simp [ieeeDiv, ha.isNaN, hb.isNaN, ha.isInf, hb.isInf, isZero_eq_false ha0, isZero_eq_false hb0]
    rw [h, ← unpack_value, ← unpack_value]
    exact stickyDiv_roundsTo hrm (unpack_ne_zero ha0) (unpack_ne_zero hb0)
  · simp [ieeeDiv, ha.isNaN, hb.isNaN, ha.isInf, hb.isInf, isZero_iff.2 (fpValue_eq_zero_iff.1 ha0), isZero_eq_false hb0,
      fpSign_eq, fpPattern_zero]

/-! ### Square roots -/

/-- The integer square root, from a root that is not too large and less than `2^k` too small. -/
theorem isqrt_spec (n k root : ℕ) (hlo : root * root ≤ n) (hhi : n < (root + 2 ^ k) * (root + 2 ^ k)) :
    isqrt n k root * isqrt n k root ≤ n ∧ n < (isqrt n k root + 1) * (isqrt n k root + 1) := by
  induction k generalizing root with
  | zero => exact ⟨hlo, hhi⟩
  | succ k ih =>
    rw [isqrt]
    split
    · rename_i ht
      refine ih _ ht ?_
      rwa [Nat.add_assoc, ← Nat.two_mul, ← Nat.pow_succ']
    · rename_i ht
      exact ih _ hlo (not_le.1 ht)

theorem isqrt_log2_spec (n : ℕ) : isqrt n (n.log2 / 2 + 1) 0 * isqrt n (n.log2 / 2 + 1) 0 ≤ n
    ∧ n < (isqrt n (n.log2 / 2 + 1) 0 + 1) * (isqrt n (n.log2 / 2 + 1) 0 + 1) := by
  refine isqrt_spec n _ 0 (Nat.zero_le n) ?_
  rw [Nat.zero_add, ← Nat.pow_add]
  exact Nat.lt_log2_self.trans_le (Nat.pow_le_pow_right two_pos (by omega))

/-- How far the radicand is shifted: far enough, and to an even exponent. -/
def rootShift (f : Fmt) (a : Fin2) : ℕ :=
  if (a.e - (2 * (f.prec + 2) - a.m.log2 : ℕ)) % 2 = 0 then 2 * (f.prec + 2) - a.m.log2
  else 2 * (f.prec + 2) - a.m.log2 + 1

/-- The integer root of the shifted radicand. -/
def intRoot (f : Fmt) (a : Fin2) : ℕ := isqrt (a.m <<< rootShift f a) ((a.m <<< rootShift f a).log2 / 2 + 1) 0

theorem stickySqrt_eq (f : Fmt) (a : Fin2) : stickySqrt f a =
    ⟨false, 2 * intRoot f a + (if intRoot f a * intRoot f a = a.m <<< rootShift f a then 0 else 1),
      (a.e - rootShift f a) / 2 - 1⟩ := rfl

theorem rootShift_even (f : Fmt) (a : Fin2) : ∃ h : ℤ, a.e = rootShift f a + 2 * h := by
  refine ⟨(a.e - rootShift f a) / 2, ?_⟩
  unfold rootShift
  split <;> omega

theorem intRoot_large {a : Fin2} (ha : a.m ≠ 0) : 2 ^ (f.frac + 1) ≤ intRoot f a := by
  have hspec := (isqrt_log2_spec (a.m <<< rootShift f a)).2
  have hn : 2 ^ (f.frac + 1) * 2 ^ (f.frac + 1) ≤ a.m <<< rootShift f a := by
    rw [Nat.shiftLeft_eq]
    calc 2 ^ (f.frac + 1) * 2 ^ (f.frac + 1) = 2 ^ (f.frac + 1 + (f.frac + 1)) := (Nat.pow_add ..).symm
      _ ≤ 2 ^ (a.m.log2 + rootShift f a) := by
        refine Nat.pow_le_pow_right two_pos ?_
        unfold rootShift Fmt.prec
        split <;> omega
      _ = 2 ^ a.m.log2 * 2 ^ rootShift f a := Nat.pow_add ..
      _ ≤ a.m * 2 ^ rootShift f a := Nat.mul_le_mul_right _ (Nat.log2_self_le ha)
  exact Nat.lt_succ_iff.1 (Nat.mul_self_lt_mul_self_iff.1 (hn.trans_lt hspec))

theorem stickySqrt_roundsTo (hrm : rm.toNat < 5) {a : Fin2} (ha : a.m ≠ 0) (hs : a.sign = false) :
    RoundsTo f rm (Real.sqrt a.value) (roundPack f rm (stickySqrt f a)) := by
  obtain ⟨hlo, hhi⟩ := isqrt_log2_spec (a.m <<< rootShift f a)
  change intRoot f a * intRoot f a ≤ _ at hlo
  change _ < (intRoot f a + 1) * (intRoot f a + 1) at hhi
  have hround : CanRound f (stickySqrt f a).m (2 * Real.sqrt (a.m <<< rootShift f a : ℕ)) := by
    rw [stickySqrt_eq]
    refine canRound_sticky ?_ ?_ ?_ (intRoot_large ha)
    · refine Real.le_sqrt_of_sq_le ?_
      rw [sq]
      exact_mod_cast hlo
    · rw [Real.sqrt_lt' (by positivity), sq]
      exact_mod_cast hhi
    · rw [Real.sqrt_eq_iff_mul_self_eq (Nat.cast_nonneg _) (Nat.cast_nonneg _), eq_comm]
      norm_cast
  refine hround.roundsTo hrm ?_
  obtain ⟨h, hh⟩ := rootShift_even f a
  have hexp : (a.e - rootShift f a) / 2 = h := by omega
  have hvalue : (a.value : ℝ) = (a.m <<< rootShift f a : ℕ) * (2 ^ h) ^ 2 := by
    rw [Fin2.value, hs, applySign_false, hh, zpow_add₀ two_ne_zero, Nat.shiftLeft_eq, mul_comm 2 h, zpow_mul, zpow_natCast,
      zpow_ofNat]
    push_cast
    ring
  rw [hvalue, Real.sqrt_mul (Nat.cast_nonneg _), Real.sqrt_sq (two_zpow_pos h).le, stickySqrt_eq, hexp, applySign_false,
    zpow_sub_one₀ two_ne_zero]
  ring

theorem ieeeSqrt_zero (h : fpValue f a = 0) (hfin : fpFinite f a) : ieeeSqrt f rm a = (a, 0) := by
  simp [ieeeSqrt, hfin.isNaN, isZero_iff.2 (fpValue_eq_zero_iff.1 h)]

theorem signOf_of_pos (h : 0 < fpValue f a) : signOf f a = false := by
  rw [← unpack_value, Fin2.value, unpack_sign] at h
  cases hs : signOf f a
  · rfl
  · rw [hs, applySign_true] at h
    have := mul_nonneg (Nat.cast_nonneg (α := ℚ) (unpack f a).m) (two_zpow_pos (K := ℚ) (unpack f a).e).le
    linarith

theorem ieeeSqrt_roundsTo (hrm : rm.toNat < 5) (hfin : fpFinite f a) (h : 0 < fpValue f a) :
    RoundsTo f rm (Real.sqrt (fpValue f a)) (ieeeSqrt f rm a) := by
  have he : ieeeSqrt f rm a = roundPack f rm (stickySqrt f (unpack f a)) := by
    simp [ieeeSqrt, hfin.isNaN, hfin.isInf, isZero_eq_false h.ne', fpSign_eq, signOf_of_pos h]
  rw [he, ← unpack_value]
  exact stickySqrt_roundsTo hrm (unpack_ne_zero h.ne') ((unpack_sign f a).trans (signOf_of_pos h))

end Sys2Proof.Machine
end

section
/-!
O56 (47_float_f.md rules R661, R665, R668, R669, R672 to R680, R694 to R697): arithmetic on finite operands gives the exact
result rounded once.
-/

namespace Sys2Proof.Machine

variable {f : Fmt} {rm : Rm} {a b c : BitVec 64}

/-! ### The four fused forms, with the signs of the product and of the addend said by value -/

theorem fmadd_gives (hrm : rm.toNat < 5) (ha : fpFinite f a) (hb : fpFinite f b) (hc : fpFinite f c) :
    GivesRounded f rm (fpValue f a * fpValue f b + fpValue f c) (sumSign rm (signOf f a != signOf f b) (signOf f c))
      (ieeeFma f rm false false a b c) := by
  simpa only [applySign_false, Bool.bne_false] using ieeeFma_gives hrm ha hb hc false false

theorem fmsub_gives (hrm : rm.toNat < 5) (ha : fpFinite f a) (hb : fpFinite f b) (hc : fpFinite f c) :
    GivesRounded f rm (fpValue f a * fpValue f b - fpValue f c) (sumSign rm (signOf f a != signOf f b) (!signOf f c))
      (ieeeFma f rm false true a b c) := by
  simpa only [applySign_false, applySign_true, Bool.bne_false, Bool.bne_true, ← sub_eq_add_neg]
    using ieeeFma_gives hrm ha hb hc false true

theorem fnmsub_gives (hrm : rm.toNat < 5) (ha : fpFinite f a) (hb : fpFinite f b) (hc : fpFinite f c) :
    GivesRounded f rm (-(fpValue f a * fpValue f b) + fpValue f c)
      (sumSign rm (!(signOf f a != signOf f b)) (signOf f c)) (ieeeFma f rm true false a b c) := by
  simpa only [applySign_false, applySign_true, Bool.bne_false, Bool.bne_true] using ieeeFma_gives hrm ha hb hc true false

theorem fnmadd_gives (hrm : rm.toNat < 5) (ha : fpFinite f a) (hb : fpFinite f b) (hc : fpFinite f c) :
    GivesRounded f rm (-(fpValue f a * fpValue f b) - fpValue f c)
      (sumSign rm (!(signOf f a != signOf f b)) (!signOf f c)) (ieeeFma f rm true true a b c) := by
  simpa only [applySign_true, Bool.bne_true, ← sub_eq_add_neg] using ieeeFma_gives hrm ha hb hc true true

/-! ### Integer operands -/

theorem ofUnsigned_gives (hrm : rm.toNat < 5) (w : Nat) (n : BitVec 64) :
    GivesRounded f rm (n.toNat % 2 ^ w : ℕ) false (ieeeOfInt f rm w false n) := by
  have h := ieeeOfInt_gives (f := f) (w := w) (sg := false) (n := (n.toNat % 2 ^ w : ℕ)) (a := n) hrm (by simp)
  rwa [Int.cast_natCast] at h

theorem signedOf_eq {w : ℕ} (hw : 0 < w) (u : ℕ) : signedOf w u = if 2 ^ (w - 1) ≤ u then (u : ℤ) - 2 ^ w else u := by
  have hpow : 2 ^ w = 2 * 2 ^ (w - 1) := by rw [← Nat.pow_succ', Nat.succ_eq_add_one, Nat.sub_add_cancel hw]
  rw [signedOf, hpow, ← ite_not]
  exact if_congr (by omega) rfl rfl

theorem ofSigned_gives (hrm : rm.toNat < 5) {w : ℕ} (hw : 0 < w) (n : BitVec 64) :
    GivesRounded f rm (signedOf w (n.toNat % 2 ^ w)) false (ieeeOfInt f rm w true n) :=
  ieeeOfInt_gives hrm (by rw [signedOf_eq hw, Bool.true_and]; simp only [decide_eq_true_eq])

/-- Settles O56: each operation by its `GivesRounded` lemma; a result without a flag is exact by `GivesRounded.exact`. -/
theorem arithmeticRoundsTheExactResult : Obligations.ArithmeticRoundsTheExactResult := by
  unfold Obligations.ArithmeticRoundsTheExactResult
  intro f rm a b c hrm ha hb hc
  have hmod : ∀ n : BitVec 64, n.toNat % 2 ^ 64 = n.toNat := fun n => Nat.mod_eq_of_lt n.isLt
  refine ⟨(ieeeAdd_gives hrm ha hb).exact, (ieeeSub_gives hrm ha hb).exact, (ieeeMul_gives hrm ha hb).exact,
    (fmadd_gives hrm ha hb hc).exact, fun hb0 hflags => ?_,
    ieeeAdd_gives hrm ha hb, ieeeSub_gives hrm ha hb, ieeeMul_gives hrm ha hb, ieeeDiv_gives hrm ha hb,
    (ieeeSqrt_zero · ha), ieeeSqrt_roundsTo hrm ha,
    fmadd_gives hrm ha hb hc, fmsub_gives hrm ha hb hc, fnmsub_gives hrm ha hb hc, fnmadd_gives hrm ha hb hc,
    fun n => ⟨ofSigned_gives hrm (by decide : 0 < 32) n, ofUnsigned_gives hrm 32 n, ?_, ?_⟩, fun d hd => ieeeCvt_gives hrm hd⟩
  · rw [(ieeeDiv_gives hrm ha hb hb0).exact hflags, div_mul_cancel₀ _ hb0]
  · have h := ofSigned_gives (f := f) hrm (by decide : 0 < 64) n
    rwa [hmod] at h
  · have h := ofUnsigned_gives (f := f) hrm 64 n
    rwa [hmod] at h

end Sys2Proof.Machine
end

section
/-!
O55 (47_float_f.md rules R667 to R669, R672 to R680, 48_float_d.md rules R741, R742): what arithmetic gives where a NaN, an
infinity or a zero takes part.
-/

namespace Sys2Proof.Machine

variable {f : Fmt} {rm : Rm} {a b c : BitVec 64}

/-! ### Every NaN is the canonical one, and NV comes with it and alone -/

/-- A NaN result is the canonical one; so is a result with NV, and no other flag is with it. -/
def CanonicalResult (f : Fmt) (r : BitVec 64 × BitVec 5) : Prop :=
  (isNaN f r.1 = true → r.1 = canonNaN f) ∧ (r.2.getLsbD 4 = true → r.1 = canonNaN f ∧ r.2 = 16)

theorem CanonicalResult.invalid (f : Fmt) : CanonicalResult f (Machine.invalid f) := ⟨fun _ => rfl, fun _ => ⟨rfl, rfl⟩⟩

theorem CanonicalResult.nanResult (f : Fmt) (signaling : Bool) : CanonicalResult f (Machine.nanResult f signaling) := by
  refine ⟨fun _ => rfl, fun h => ⟨rfl, ?_⟩⟩
  cases signaling
  · exact absurd h (by simp [Machine.nanResult])
  · rfl

theorem CanonicalResult.of_number {v : BitVec 64} {flags : BitVec 5} (hn : isNaN f v = false)
    (hnv : flags.getLsbD 4 = false) : CanonicalResult f (v, flags) :=
  ⟨fun h => absurd (hn.symm.trans h) (by decide), fun h => absurd (hnv.symm.trans h) (by decide)⟩

theorem CanonicalResult.of_mag {sign : Bool} {mag : ℕ} {flags : BitVec 5} (hm : mag ≤ f.infMag)
    (hnv : flags.getLsbD 4 = false) : CanonicalResult f (fpPattern f sign mag, flags) :=
  .of_number (not_isNaN_of_mag ((fpMag_fpPattern (hm.trans_lt (infMag_lt f))).trans_le hm)) hnv

theorem overflowMag_le (f : Fmt) (rm : Rm) (sign : Bool) : overflowMag f rm sign ≤ f.infMag := by
  dsimp only [overflowMag]
  split_ifs
  · exact le_rfl
  · exact Nat.sub_le _ _

theorem CanonicalResult.roundPack (f : Fmt) (rm : Rm) (v : Fin2) : CanonicalResult f (Machine.roundPack f rm v) := by
  rw [roundPack_eq]
  split
  · exact .of_mag (overflowMag_le f rm v.sign) rfl
  · rename_i hlt
    refine .of_mag (not_le.1 hlt).le ?_
    split_ifs <;> rfl

theorem CanonicalResult.roundResult (f : Fmt) (rm : Rm) (v : Fin2) : CanonicalResult f (Machine.roundResult f rm v) := by
  rw [Machine.roundResult]
  split
  · exact .of_mag (Nat.zero_le _) rfl
  · exact .roundPack f rm v

theorem canonical_ieeeAdd (f : Fmt) (rm : Rm) (a b : BitVec 64) : CanonicalResult f (ieeeAdd f rm a b) := by
  rw [ieeeAdd]
  split
  · exact .nanResult f _
  · rename_i hnan
    rw [Bool.not_eq_true, Bool.or_eq_false_iff] at hnan
    split_ifs
    · exact .invalid f
    · exact .of_number hnan.1 rfl
    · exact .of_number hnan.2 rfl
    · exact .roundResult f rm _

theorem canonical_ieeeSub (f : Fmt) (rm : Rm) (a b : BitVec 64) : CanonicalResult f (ieeeSub f rm a b) := by
  rw [ieeeSub]
  split
  · exact .nanResult f _
  · exact canonical_ieeeAdd f rm a _

theorem canonical_ieeeMul (f : Fmt) (rm : Rm) (a b : BitVec 64) : CanonicalResult f (ieeeMul f rm a b) := by
  rw [ieeeMul]
  split_ifs
  · exact .nanResult f _
  · exact .invalid f
  · exact .of_mag le_rfl rfl
  · exact .roundResult f rm _

theorem canonical_ieeeDiv (f : Fmt) (rm : Rm) (a b : BitVec 64) : CanonicalResult f (ieeeDiv f rm a b) := by
  dsimp only [ieeeDiv]
  split_ifs
  · exact .nanResult f _
  · exact .invalid f
  · exact .of_mag le_rfl rfl
  · exact .of_mag (Nat.zero_le _) rfl
  · exact .invalid f
  · exact .of_mag le_rfl rfl
  · exact .of_mag (Nat.zero_le _) rfl
  · exact .roundPack f rm _

theorem canonical_ieeeSqrt (f : Fmt) (rm : Rm) (a : BitVec 64) : CanonicalResult f (ieeeSqrt f rm a) := by
  rw [ieeeSqrt]
  split
  · exact .nanResult f _
  · rename_i hnan
    rw [Bool.not_eq_true] at hnan
    split_ifs
    · exact .of_number hnan rfl
    · exact .invalid f
    · exact .of_number hnan rfl
    · exact .roundPack f rm _

theorem canonical_ieeeFma (f : Fmt) (rm : Rm) (negProduct negAddend : Bool) (a b c : BitVec 64) :
    CanonicalResult f (ieeeFma f rm negProduct negAddend a b c) := by
  dsimp only [ieeeFma]
  split_ifs
  · exact .nanResult f _
  · exact .invalid f
  · exact .invalid f
  · exact .of_mag le_rfl rfl
  · exact .of_mag le_rfl rfl
  · exact .roundResult f rm _

theorem canonical_ieeeCvt (f : Fmt) (rm : Rm) (a : BitVec 64) : CanonicalResult f (ieeeCvt f rm a) := by
  dsimp only [ieeeCvt]
  split_ifs
  · exact .nanResult f _
  · exact .of_mag le_rfl rfl
  · exact .roundResult f rm _

theorem canonical_ieeeArith {op : FpOp} (f : Fmt) (rm : Rm) (a b c : BitVec 64) (h : ∀ w sg, op ≠ .cvtF2I w sg) :
    CanonicalResult f (ieeeArith op f rm a b c) := by
  cases op with
  | add => exact canonical_ieeeAdd f rm a b
  | sub => exact canonical_ieeeSub f rm a b
  | mul => exact canonical_ieeeMul f rm a b
  | div => exact canonical_ieeeDiv f rm a b
  | sqrt => exact canonical_ieeeSqrt f rm a
  | fmadd => exact canonical_ieeeFma f rm false false a b c
  | fmsub => exact canonical_ieeeFma f rm false true a b c
  | fnmsub => exact canonical_ieeeFma f rm true false a b c
  | fnmadd => exact canonical_ieeeFma f rm true true a b c
  | cvtF2I w sg => exact absurd rfl (h w sg)
  | cvtI2F w sg => exact .roundResult f rm _
  | cvtF2F => exact canonical_ieeeCvt f rm a

/-! ### NaN operands -/

/-- The result for a NaN operand, by whether anything signals. -/
theorem nanResult_eq {signaling : Bool} {p : Prop} [Decidable p] (h : signaling = true ↔ p) :
    nanResult f signaling = if p then invalid f else (quietPattern f, 0) := by
  by_cases hp : p
  · rw [if_pos hp, h.2 hp]
    rfl
  · rw [if_neg hp, nanResult, canonNaN_eq, if_neg (mt h.1 hp)]
    rfl

theorem signaling_or_iff : (isSNaN f a || isSNaN f b) = true ↔ FpSNaN f a ∨ FpSNaN f b := by
  rw [Bool.or_eq_true, isSNaN_iff, isSNaN_iff]

theorem ieeeAdd_nan (h : FpNaN f a ∨ FpNaN f b) : ieeeAdd f rm a b = nanResult f (isSNaN f a || isSNaN f b) :=
  if_pos (nan_or_iff.2 h)

theorem ieeeSub_nan (h : FpNaN f a ∨ FpNaN f b) : ieeeSub f rm a b = nanResult f (isSNaN f a || isSNaN f b) :=
  if_pos (nan_or_iff.2 h)

theorem ieeeMul_nan (h : FpNaN f a ∨ FpNaN f b) : ieeeMul f rm a b = nanResult f (isSNaN f a || isSNaN f b) :=
  if_pos (nan_or_iff.2 h)

theorem ieeeDiv_nan (h : FpNaN f a ∨ FpNaN f b) : ieeeDiv f rm a b = nanResult f (isSNaN f a || isSNaN f b) :=
  if_pos (nan_or_iff.2 h)

theorem ieeeSqrt_nan (h : FpNaN f a) : ieeeSqrt f rm a = nanResult f (isSNaN f a) := if_pos (isNaN_iff.2 h)

theorem ieeeCvt_nan (h : FpNaN f.other a) : ieeeCvt f rm a = nanResult f (isSNaN f.other a) := if_pos (isNaN_iff.2 h)

theorem arithmetic_nan (h : FpNaN f a ∨ FpNaN f b) :
    ∀ r ∈ [ieeeAdd f rm a b, ieeeSub f rm a b, ieeeMul f rm a b, ieeeDiv f rm a b],
      r = if FpSNaN f a ∨ FpSNaN f b then invalid f else (quietPattern f, 0) := by
  rw [ieeeAdd_nan h, ieeeSub_nan h, ieeeMul_nan h, ieeeDiv_nan h, nanResult_eq signaling_or_iff]
  simp

/-- The invalid product of a fused form: infinity times zero. -/
theorem badProduct_iff : ((isInf f a && isZero f b) || (isZero f a && isInf f b)) = true
    ↔ (FpInf f a ∧ FpZero f b) ∨ (FpZero f a ∧ FpInf f b) := by
  rw [Bool.or_eq_true, Bool.and_eq_true, Bool.and_eq_true, isInf_iff, isZero_iff, isZero_iff, isInf_iff]

theorem ieeeFma_nan (h : FpNaN f a ∨ FpNaN f b ∨ FpNaN f c) (negProduct negAddend : Bool) :
    ieeeFma f rm negProduct negAddend a b c
      = if FpSNaN f a ∨ FpSNaN f b ∨ FpSNaN f c ∨ (FpInf f a ∧ FpZero f b) ∨ (FpZero f a ∧ FpInf f b)
        then invalid f else (quietPattern f, 0) := by
  have hnan : (isNaN f a || isNaN f b || isNaN f c) = true := by
    rw [Bool.or_eq_true, nan_or_iff, isNaN_iff, or_assoc]
    exact h
  refine (if_pos hnan).trans (nanResult_eq ?_)
  rw [Bool.or_eq_true, badProduct_iff, Bool.or_eq_true, signaling_or_iff, isSNaN_iff, or_assoc, or_assoc]

/-! ### Infinities and zeros -/

theorem invalid_eq (f : Fmt) : invalid f = (quietPattern f, 0b10000) := by
  rw [invalid, canonNaN_eq]
  rfl

theorem isZero_iff_value : isZero f a = true ↔ fpValue f a = 0 := isZero_iff.trans fpValue_eq_zero_iff.symm

theorem FpInf.fpNeg (h : FpInf f b) : FpInf f (Machine.fpNeg f b) := by
  rw [← isInf_iff, Machine.isInf, fpMag_fpNeg]
  exact h.isInf

theorem FpZero.isInf (h : FpZero f b) : isInf f b = false := by
  rw [Bool.eq_false_iff]
  exact fun hinf => absurd ((isZero_iff.2 h).symm.trans (isZero_of_inf hinf)) (by decide)

theorem FpInf.not_zero (h : FpInf f a) : ¬FpZero f a := fun hz => absurd (hz.isInf.symm.trans h.isInf) (by decide)

theorem fpNeg_of_inf (h : FpInf f b) : fpNeg f b = infPattern f (!signOf f b) := by
  rw [fpNeg, h.mag, fpSign_eq, fpPattern_infMag]

theorem ieeeAdd_inf_inf (ha : FpInf f a) (hb : FpInf f b) :
    ieeeAdd f rm a b = if signOf f a != signOf f b then invalid f else (a, 0) := by
  simp [ieeeAdd, ha.isNaN, hb.isNaN, ha.isInf, hb.isInf, fpSign_eq]

theorem ieeeAdd_inf_finite (ha : FpInf f a) (hb : fpFinite f b) : ieeeAdd f rm a b = (a, 0) := by
  simp [ieeeAdd, ha.isNaN, hb.isNaN, ha.isInf, hb.isInf]

theorem ieeeAdd_finite_inf (ha : fpFinite f a) (hb : FpInf f b) : ieeeAdd f rm a b = (b, 0) := by
  simp [ieeeAdd, ha.isNaN, hb.isNaN, ha.isInf, hb.isInf]

theorem ieeeSub_inf_inf (ha : FpInf f a) (hb : FpInf f b) :
    ieeeSub f rm a b = if signOf f a != signOf f b then (a, 0) else invalid f := by
  rw [ieeeSub_eq ha.isNaN hb.isNaN, ieeeAdd_inf_inf ha hb.fpNeg, signOf_fpNeg]
  cases signOf f a <;> cases signOf f b <;> rfl

theorem ieeeSub_inf_finite (ha : FpInf f a) (hb : fpFinite f b) : ieeeSub f rm a b = (a, 0) := by
  rw [ieeeSub_eq ha.isNaN hb.isNaN, ieeeAdd_inf_finite ha (fpFinite_fpNeg hb)]

theorem ieeeSub_finite_inf (ha : fpFinite f a) (hb : FpInf f b) :
    ieeeSub f rm a b = (infPattern f (!signOf f b), 0) := by
  rw [ieeeSub_eq ha.isNaN hb.isNaN, ieeeAdd_finite_inf ha hb.fpNeg, fpNeg_of_inf hb]

theorem ieeeMul_inf (hna : isNaN f a = false) (hnb : isNaN f b = false) (h : FpInf f a ∨ FpInf f b) :
    ieeeMul f rm a b = if FpZero f a ∨ FpZero f b then invalid f else (infPattern f (signOf f a != signOf f b), 0) := by
  have hinf : (isInf f a || isInf f b) = true := by rwa [Bool.or_eq_true, isInf_iff, isInf_iff]
  simp [ieeeMul, hna, hnb, hinf, fpSign_eq, fpPattern_infMag, isZero_iff]

theorem ieeeMul_inf_inf (ha : FpInf f a) (hb : FpInf f b) :
    ieeeMul f rm a b = (infPattern f (signOf f a != signOf f b), 0) :=
  (ieeeMul_inf ha.isNaN hb.isNaN (.inl ha)).trans (if_neg (not_or.2 ⟨ha.not_zero, hb.not_zero⟩))

theorem ieeeMul_inf_finite (ha : FpInf f a) (hb : fpFinite f b) :
    ieeeMul f rm a b = if fpValue f b = 0 then invalid f else (infPattern f (signOf f a != signOf f b), 0) := by
  rw [ieeeMul_inf ha.isNaN hb.isNaN (.inl ha)]
  exact if_congr ((or_iff_right ha.not_zero).trans fpValue_eq_zero_iff.symm) rfl rfl

theorem ieeeMul_finite_inf (ha : fpFinite f a) (hb : FpInf f b) :
    ieeeMul f rm a b = if fpValue f a = 0 then invalid f else (infPattern f (signOf f a != signOf f b), 0) := by
  rw [ieeeMul_inf ha.isNaN hb.isNaN (.inr hb)]
  exact if_congr ((or_iff_left hb.not_zero).trans fpValue_eq_zero_iff.symm) rfl rfl

theorem ieeeDiv_inf_inf (ha : FpInf f a) (hb : FpInf f b) : ieeeDiv f rm a b = invalid f := by
  simp [ieeeDiv, ha.isNaN, hb.isNaN, ha.isInf, hb.isInf]

theorem ieeeDiv_inf_finite (ha : FpInf f a) (hb : fpFinite f b) :
    ieeeDiv f rm a b = (infPattern f (signOf f a != signOf f b), 0) := by
  simp [ieeeDiv, ha.isNaN, hb.isNaN, ha.isInf, hb.isInf, fpSign_eq, fpPattern_infMag]

theorem ieeeDiv_finite_inf (ha : fpFinite f a) (hb : FpInf f b) :
    ieeeDiv f rm a b = (zeroPattern f (signOf f a != signOf f b), 0) := by
  simp [ieeeDiv, ha.isNaN, hb.isNaN, ha.isInf, hb.isInf, fpSign_eq, fpPattern_zero]

theorem ieeeDiv_zero (ha : fpFinite f a) (hb : FpZero f b) : ieeeDiv f rm a b =
    if fpValue f a = 0 then invalid f else (infPattern f (signOf f a != signOf f b), 0b01000) := by
  simp [ieeeDiv, ha.isNaN, FpZero.isNaN hb, ha.isInf, FpZero.isInf hb, fpSign_eq, fpPattern_infMag, isZero_iff.2 hb,
    isZero_iff_value]

theorem ieeeSqrt_inf (ha : FpInf f a) : ieeeSqrt f rm a = if signOf f a then invalid f else (a, 0) := by
  simp [ieeeSqrt, ha.isNaN, ha.isInf, isZero_of_inf, fpSign_eq]

theorem signOf_of_neg (h : fpValue f a < 0) : signOf f a = true := by
  have hpos : 0 < fpValue f (fpNeg f a) := by
    rw [fpValue_fpNeg]
    exact neg_pos.2 h
  simpa [signOf_fpNeg] using signOf_of_pos hpos

theorem ieeeSqrt_neg (ha : fpFinite f a) (h : fpValue f a < 0) : ieeeSqrt f rm a = invalid f := by
  simp [ieeeSqrt, ha.isNaN, isZero_eq_false h.ne, fpSign_eq, signOf_of_neg h]

section
variable (hna : isNaN f a = false) (hnb : isNaN f b = false) (hnc : isNaN f c = false) (negProduct negAddend : Bool)
include hna hnb hnc

theorem ieeeFma_badProduct (h : (FpInf f a ∧ FpZero f b) ∨ (FpZero f a ∧ FpInf f b)) :
    ieeeFma f rm negProduct negAddend a b c = invalid f := by
  dsimp only [ieeeFma]
  rw [hna, hnb, hnc, badProduct_iff.2 h]
  rfl

theorem ieeeFma_infProduct (h : ¬((FpInf f a ∧ FpZero f b) ∨ (FpZero f a ∧ FpInf f b)))
    (hinf : FpInf f a ∨ FpInf f b) : ieeeFma f rm negProduct negAddend a b c =
      if FpInf f c ∧ ((signOf f a != signOf f b) != negProduct) ≠ (signOf f c != negAddend) then invalid f
      else (infPattern f ((signOf f a != signOf f b) != negProduct), 0) := by
  rw [← badProduct_iff, Bool.not_eq_true] at h
  have hinf' : (isInf f a || isInf f b) = true := by rwa [Bool.or_eq_true, isInf_iff, isInf_iff]
  simp only [ieeeFma, hna, hnb, hnc, h, hinf', Bool.or_self, Bool.false_eq_true, if_false, if_true, fpSign_eq,
    fpPattern_infMag]
  refine if_congr ?_ rfl rfl
  rw [Bool.and_eq_true, isInf_iff, bne_iff_ne]

theorem ieeeFma_infAddend (ha : fpFinite f a) (hb : fpFinite f b) (h : FpInf f c) :
    ieeeFma f rm negProduct negAddend a b c = (infPattern f (signOf f c != negAddend), 0) := by
  simp [ieeeFma, hna, hnb, hnc, ha.isInf, hb.isInf, h.isInf, fpSign_eq, fpPattern_infMag]

end

theorem ieeeCvt_inf (h : FpInf f.other a) : ieeeCvt f rm a = (infPattern f (signOf f.other a), 0) := by
  simp [ieeeCvt, h.isNaN, h.isInf, fpSign_eq, fpPattern_infMag]

theorem isNaN_eq_false (h : ¬FpNaN f a) : isNaN f a = false := by rwa [Bool.eq_false_iff, ne_eq, isNaN_iff]

/-- Settles O55: NaN results by `canonical_ieeeArith`, then each operation on NaNs, on infinities and on zeros by its own
lemma. -/
theorem arithmeticOnNaNsAndInfinities : Obligations.ArithmeticOnNaNsAndInfinities := by
  unfold Obligations.ArithmeticOnNaNsAndInfinities
  refine ⟨fun op f rm a b c h => canonical_ieeeArith f rm a b c h, fun f => ⟨canonNaN_eq f, fun v _ => isNaN_iff⟩,
    fun f rm a b c _ _ _ => ?_⟩
  dsimp only
  rw [← invalid_eq]
  refine ⟨arithmetic_nan, fun ha => ?_, ieeeFma_nan,
    fun ha hb => ⟨ieeeAdd_inf_inf ha hb, ieeeSub_inf_inf ha hb, ieeeDiv_inf_inf ha hb, ieeeMul_inf_inf ha hb⟩,
    fun ha hb => ⟨ieeeAdd_inf_finite ha hb, ieeeSub_inf_finite ha hb, ieeeDiv_inf_finite ha hb, ieeeMul_inf_finite ha hb⟩,
    fun ha hb => ⟨ieeeAdd_finite_inf ha hb, ieeeSub_finite_inf ha hb, ieeeDiv_finite_inf ha hb, ieeeMul_finite_inf ha hb⟩,
    ieeeDiv_zero, ieeeSqrt_inf, ieeeSqrt_neg, fun ha hb hc negProduct negAddend => ?_,
    fun d _ => ⟨fun hd => ?_, ieeeCvt_inf⟩⟩
  · rw [ieeeSqrt_nan ha, nanResult_eq isSNaN_iff]
  · have hna := isNaN_eq_false ha
    have hnb := isNaN_eq_false hb
    have hnc := isNaN_eq_false hc
    exact ⟨ieeeFma_badProduct hna hnb hnc negProduct negAddend, ieeeFma_infProduct hna hnb hnc negProduct negAddend,
      ieeeFma_infAddend hna hnb hnc negProduct negAddend⟩
  · rw [ieeeCvt_nan hd, nanResult_eq isSNaN_iff]

end Sys2Proof.Machine
end

section
/-!
Trap entry (60_exceptions.md rules R850, R870 to R874): what an entry makes of `mstatus`, which of the two entries an
exception takes, and the vector; and the interrupts (rules R872, R880 to R882): the scan as a search of two lists, and
the step that takes one.
-/

namespace Sys2Proof.Machine

variable {s : State} {e : Exn}

/-! ### Trap entry -/

/-- Bit `k` of `mstatus` after an entry into Supervisor mode: SPP, SPIE and SIE change (rule R870). -/
theorem bit_enterS_mstatus (cause : Word) (code : Nat) (s : State) (k : Nat) (hk : k < 64) :
    bit (enterS cause code s).mstatus k =
      if k = 8 then s.priv != .user else if k = 5 then bit s.mstatus 1 else if k = 1 then false
      else bit s.mstatus k := by
  show bit (setBit (setBit (setBit s.mstatus 8 _) 5 _) 1 _) k = _
  simp only [bit_setBit _ _ _ _ hk]
  by_cases h8 : k = 8
  · simp [h8]
  · by_cases h5 : k = 5
    · simp [h5]
    · simp [h8, h5]

/-- The two bits of the number of a mode, which MPP takes. -/
theorem bit_level (p : Priv) : bit (BitVec.ofNat 64 p.level) 0 = (p != .user)
    ∧ bit (BitVec.ofNat 64 p.level) 1 = (p == .machine) := by
  cases p <;> decide

/-- Bit `k` of `mstatus` after an entry into Machine mode: MPP, MPIE and MIE change (rule R870). -/
theorem bit_enterM_mstatus (cause : Word) (code : Nat) (s : State) (k : Nat) (hk : k < 64) :
    bit (enterM cause code s).mstatus k =
      if k = 11 then s.priv != .user else if k = 12 then s.priv == .machine
      else if k = 7 then bit s.mstatus 3 else if k = 3 then false else bit s.mstatus k := by
  obtain ⟨hlow, hhigh⟩ := bit_level s.priv
  show bit (setBit (setBit (setField s.mstatus 11 2 _) 7 _) 3 _) k = _
  rw [bit_setBit _ _ _ _ hk, bit_setBit _ _ _ _ hk, bit_setField (by decide) _ _ _ _ hk]
  by_cases h11 : k = 11
  · simp [h11, hlow]
  · by_cases h12 : k = 12
    · simp [h12, hhigh]
    · rw [if_neg (show ¬(11 ≤ k ∧ k < 11 + 2) by omega), if_neg h11, if_neg h12]
      by_cases h7 : k = 7
      · simp [h7]
      · simp [h7]

theorem deliver_of_delegated (h : delegated e.cause.code s = true) :
    deliver e s = { enterS (BitVec.ofNat 64 e.cause.code) e.cause.code s with stval := e.tval } := if_pos h

theorem deliver_of_not_delegated (h : delegated e.cause.code s = false) :
    deliver e s = { enterM (BitVec.ofNat 64 e.cause.code) e.cause.code s with mtval := e.tval } :=
  if_neg (by simp [h])

theorem Cause.toNat_code (c : Cause) : (BitVec.ofNat 64 c.code).toNat = c.code := by cases c <;> rfl

/-- Settles O42: each entry's own fields, and its status bits by `bit_enterS_mstatus` and `bit_enterM_mstatus`. -/
theorem trapDelivery : Obligations.TrapDelivery := by
  refine ⟨fun e s => ⟨fun h => ?supervisor, fun h => ?machine⟩, by decide⟩
  case supervisor =>
    rw [deliver_of_delegated h]
    have hstatus := bit_enterS_mstatus (BitVec.ofNat 64 e.cause.code) e.cause.code s
    exact ⟨rfl, e.cause.toNat_code, rfl, hstatus, rfl, rfl, rfl, rfl⟩
  case machine =>
    rw [deliver_of_not_delegated h]
    have hstatus := bit_enterM_mstatus (BitVec.ofNat 64 e.cause.code) e.cause.code s
    exact ⟨rfl, e.cause.toNat_code, rfl, hstatus, rfl, rfl, rfl, rfl⟩

/-! ### Delegation and the vector -/

/-- Machine mode delegates nothing; below it, the code's bit of `medeleg`, or of `medelegh` past XLEN = 32, decides
(rule R871). -/
theorem delegated_iff {code : Nat} (hcode : code < 64) : delegated code s = true ↔ s.priv ≠ .machine
    ∧ ((code < s.cfg.xlen.bits ∧ bit s.medeleg code = true)
      ∨ (s.cfg.xlen = .rv32 ∧ 32 ≤ code ∧ bit s.medelegh (code - 32) = true)) := by
  rw [delegated, Bool.and_eq_true, bne_iff_ne]
  refine and_congr_right fun _ => ?_
  cases hx : s.cfg.xlen
  · by_cases h : code < 32
    · simp [Xlen.bits, h]
    · simp [Xlen.bits, h, Nat.not_lt.1 h]
  · simp [Xlen.bits, hcode]

/-- Clearing bits 1 and 0 rounds down to a multiple of 4. -/
theorem clearBits01_toNat (w : Word) : (w &&& ~~~3#64).toNat = w.toNat / 4 * 4 := by
  have h : w &&& ~~~3#64 = w >>> 2 <<< 2 := (BitVec.shiftLeft_ushiftRight (x := w) (n := 2)).symm
  rw [h, BitVec.toNat_shiftLeft, BitVec.toNat_ushiftRight]
  omega

/-- Direct mode (rule R873). -/
theorem trapVector_direct {tvec : Word} (h : bit tvec 0 = false) (xl : Xlen) (code : Nat) :
    (trapVector xl tvec code).toNat = tvec.toNat / 4 * 4 := by
  rw [← clearBits01_toNat, trapVector, h, if_neg Bool.false_ne_true]

/-- Vectored mode (rule R873). -/
theorem trapVector_vectored {tvec : Word} (h : bit tvec 0 = true) (xl : Xlen) (code : Nat) :
    (trapVector xl tvec code).toNat = (tvec.toNat / 4 * 4 + 4 * code) % 2 ^ xl.bits := by
  rw [trapVector, h, if_pos rfl, norm_toNat, BitVec.toNat_add, clearBits01_toNat, BitVec.toNat_ofNat, Nat.add_mod_mod]
  exact Nat.mod_mod_of_dvd _ (Nat.pow_dvd_pow 2 (Xlen_bits_le _))

/-- Settles O43: `delegated_iff`, the mode by `level_le_deliver`, and the two modes of the vector. -/
theorem trapTargets : Obligations.TrapTargets := by
  intro e s code tvec hcode _
  refine ⟨delegated_iff hcode, level_le_deliver e s, fun hm => ?_, fun h => trapVector_direct h _ _,
    fun h => trapVector_vectored h _ _⟩
  rw [deliver_of_not_delegated (by simp [delegated, hm])]
  rfl

/-! ### The interrupt scan -/

theorem Irq.code_lt (i : Irq) : i.code < 64 := by cases i <;> decide

theorem Irq.code_injective : Function.Injective Irq.code := by
  intro i j h
  cases i <;> cases j <;> cases h <;> rfl

/-- A search of a list of interrupts finds the first one whose code has a property. -/
theorem find?_eq_some_iff_codes {order : List Irq} {p : Irq → Bool} {P : Nat → Prop}
    (hp : ∀ i, p i = true ↔ P i.code) (i : Irq) : order.find? p = some i ↔
      ∃ before after, order.map Irq.code = before ++ i.code :: after ∧ P i.code ∧ ∀ c ∈ before, ¬P c := by
  rw [List.find?_eq_some_iff_append]
  constructor
  · rintro ⟨hi, before, after, rfl, hbefore⟩
    refine ⟨before.map Irq.code, after.map Irq.code, by simp, (hp i).1 hi, ?_⟩
    exact List.forall_mem_map.2 fun j hj => by simpa [← hp] using hbefore j hj
  · rintro ⟨before, after, horder, hi, hbefore⟩
    obtain ⟨bs, rest, rfl, rfl, hrest⟩ := List.map_eq_append_iff.1 horder
    obtain ⟨j, as, rfl, hj, -⟩ := List.map_eq_cons_iff.1 hrest
    obtain rfl := Irq.code_injective hj
    rw [List.forall_mem_map] at hbefore
    exact ⟨(hp j).2 hi, bs, as, rfl, fun b hb => by simpa [← hp] using hbefore b hb⟩

theorem find?_eq_none_iff_codes {order : List Irq} {p : Irq → Bool} {P : Nat → Prop}
    (hp : ∀ i, p i = true ↔ P i.code) : order.find? p = none ↔ ∀ c ∈ order.map Irq.code, ¬P c := by
  rw [List.find?_eq_none, List.forall_mem_map]
  exact forall₂_congr fun i _ => not_congr (hp i)

/-- A poll point delivers the interrupt with this code into Machine mode, where none comes before it (rule R881). -/
def GoesToM (s : State) (c : Nat) : Prop :=
  (bit s.mip c = true ∧ bit s.mie c = true) ∧ bit s.mideleg c = false
    ∧ (s.priv ≠ .machine ∨ bit s.mstatus 3 = true)

/-- A poll point delivers the interrupt with this code into Supervisor mode, where none comes before it (rule R882). -/
def GoesToS (s : State) (c : Nat) : Prop :=
  (bit s.mip c = true ∧ bit s.mie c = true) ∧ bit s.mideleg c = true
    ∧ (s.priv = .user ∨ (s.priv = .supervisor ∧ bit s.mstatus 1 = true))

/-- The test of the machine-destined search, with the condition of its mode. -/
def takenM (s : State) (i : Irq) : Bool :=
  decide (s.priv ≠ .machine ∨ bit s.mstatus 3 = true) && bit (s.mip &&& s.mie &&& ~~~s.mideleg) i.code

/-- The test of the supervisor-destined search, with the condition of its mode. -/
def takenS (s : State) (i : Irq) : Bool :=
  decide (s.priv = .user ∨ (s.priv = .supervisor ∧ bit s.mstatus 1 = true))
    && bit (s.mip &&& s.mie &&& s.mideleg) i.code

theorem bit_not (a : Word) {k : Nat} (hk : k < 64) : bit (~~~a) k = !bit a k := by
  rw [bit, BitVec.getLsbD_not, decide_eq_true hk, Bool.true_and, bit]

theorem takenM_iff (i : Irq) : takenM s i = true ↔ GoesToM s i.code := by
  rw [takenM, bit_and, bit_and, bit_not _ i.code_lt]
  simp only [Bool.and_eq_true, decide_eq_true_eq, Bool.not_eq_true', GoesToM]
  tauto

theorem takenS_iff (i : Irq) : takenS s i = true ↔ GoesToS s i.code := by
  rw [takenS, bit_and, bit_and]
  simp only [Bool.and_eq_true, decide_eq_true_eq, GoesToS]
  tauto

/-- A condition that does not depend on the element moves into the search. -/
theorem find?_const_and {α : Type} (b : Bool) (p : α → Bool) (l : List α) :
    l.find? (fun i => b && p i) = if b = true then l.find? p else none := by
  cases b <;> simp

theorem supervisorScan_eq (s : State) :
    supervisorScan (s.mip &&& s.mie) s = (supervisorOrder.find? (takenS s)).map (·, true) := by
  unfold takenS supervisorScan
  rw [find?_const_and]
  split <;> simp [*]

/-- The scan searches the machine-destined list, and the supervisor-destined one where that gives nothing. -/
theorem interruptScan_eq (s : State) : interruptScan s =
    ((machineOrder.find? (takenM s)).map (·, false)).or ((supervisorOrder.find? (takenS s)).map (·, true)) := by
  rw [← supervisorScan_eq]
  unfold takenM interruptScan
  rw [find?_const_and]
  by_cases hm : s.priv ≠ .machine ∨ bit s.mstatus 3 = true
  · simp only [hm, if_true, decide_true]
    cases machineOrder.find? _ <;> rfl
  · simp [hm]

/-- Settles O44: both clauses are what the two searches of `interruptScan_eq` find. -/
theorem interruptPriority : Obligations.InterruptPriority := by
  intro s
  show (∀ i, interruptScan s = some (i, false) ↔ ∃ before after,
      machineOrder.map Irq.code = before ++ i.code :: after ∧ GoesToM s i.code ∧ ∀ c ∈ before, ¬GoesToM s c)
    ∧ (∀ i, interruptScan s = some (i, true) ↔ (∀ c ∈ machineOrder.map Irq.code, ¬GoesToM s c)
      ∧ ∃ before after, supervisorOrder.map Irq.code = before ++ i.code :: after
        ∧ GoesToS s i.code ∧ ∀ c ∈ before, ¬GoesToS s c)
  simp only [← find?_eq_some_iff_codes takenM_iff, ← find?_eq_some_iff_codes takenS_iff,
    ← find?_eq_none_iff_codes takenM_iff, interruptScan_eq]
  cases machineOrder.find? (takenM s) <;> simp

/-! ### The step that takes an interrupt -/

/-- The mark that an instruction wrote `mcycle` is down before every step. -/
theorem beginStep_wroteMcycle (i : StepInput) (s : State) : (beginStep i s).wroteMcycle = false := by
  obtain ⟨mip, mem, resv, uptime, h, -⟩ := beginStep_eq_fireTimer i s
  rw [h]
  rcases fireTimer_cases i.timerWaits { atStart s with mip := mip, mem := mem, resv := resv, uptime := uptime }
    with ⟨d, -, -, -, e⟩ | ⟨-, e⟩ <;> rw [e] <;> rfl

/-- A Running hart whose poll point takes an interrupt enters the trap and runs no instruction (rule R430). -/
theorem step_eq_deliverInterrupt (hrun : s.runState = .running) {i : Irq} {toS : Bool}
    (hscan : interruptScan (beginStep (nextInput s) s) = some (i, toS)) :
    step s = .next (retire false (deliverInterrupt i toS (beginStep (nextInput s) s))) := by
  simp [step, stepWith, hrun, cycle, pollInterrupt, hscan]

/-- The cause of an interrupt is its code with bit XLEN-1 set. -/
theorem irqCause_toNat (xl : Xlen) (i : Irq) : (irqCause xl i).toNat = 2 ^ (xl.bits - 1) + i.code := by
  cases xl <;> cases i <;> rfl

/-- Settles O45: the entry of the target level, then a retire that counts the cycle and no instruction. -/
theorem interruptDelivery : Obligations.InterruptDelivery := by
  rintro s _ i toS hrun rfl hscan
  refine ⟨_, step_eq_deliverInterrupt hrun hscan, ?_⟩
  have hmark := beginStep_wroteMcycle (nextInput s) s
  generalize beginStep (nextInput s) s = s0 at hmark
  obtain ⟨-, -, hinstret, hcycle, -⟩ := retireAdvancesPcAndCounters false (deliverInterrupt i toS s0)
  cases toS with
  | true =>
    have hstatus := bit_enterS_mstatus (irqCause s0.cfg.xlen i) i.code s0
    exact ⟨hinstret (.inl rfl), rfl, rfl, rfl, rfl, rfl, rfl, hcycle hmark,
      fun _ => ⟨rfl, irqCause_toNat _ i, rfl, rfl, rfl, rfl, hstatus⟩, nofun⟩
  | false =>
    have hstatus := bit_enterM_mstatus (irqCause s0.cfg.xlen i) i.code s0
    exact ⟨hinstret (.inl rfl), rfl, rfl, rfl, rfl, rfl, rfl, hcycle hmark, nofun,
      fun _ => ⟨rfl, irqCause_toNat _ i, rfl, rfl, rfl, rfl, hstatus⟩⟩

end Sys2Proof.Machine
end
